-- ==== Sys2Proof/Word.lean ====
section
/-! DEFINITION. The two word sizes of the maze8 CORE (spec 00_scope.md R6, R8): 8-bit values and
16-bit addresses. All values are unsigned. -/

namespace Sys2Proof

/-- An 8-bit value: a register, an immediate, a memory byte (R6, R8). -/
abbrev Byte := BitVec 8

/-- A 16-bit address of program memory or of data memory (R6, R40). -/
abbrev Addr := BitVec 16

end Sys2Proof
end

