-- ==== Sys2Proof/Config.lean ====
section
/-! DEFINITION. The fixed parameters of the CORE (spec 00_scope.md R6) and its only open parameters,
the display driver's colour tables (20_memory.md R58, 92_eei_decisions.md D10). -/

namespace Sys2Proof.Config

/-- Bytes in each of the two memories (R6: program memory and data memory, 65536 bytes each). -/
def memorySize : Nat := 65536

/-- Bytes in a page of data memory (R6, R46). -/
def pageSize : Nat := 256

/-- Pages of data memory (R6, R46). -/
def pageCount : Nat := 256

/-- The longest program image the load port takes (R6, R146). -/
def maxImageSize : Nat := 65536

/-- The first address of the framebuffer region (R6, R55). -/
def framebufferBase : Addr := 0x8000#16

/-- Bytes in the framebuffer region, 0x8000 to 0xFFFF (R6, R55). -/
def framebufferSize : Nat := 32768

/-- Pixel columns of the display (R6, R56).
DESIGN CHOICE of the spec (D9, entry 10): 228 is the width. -/
def displayWidth : Nat := 228

/-- Pixel rows of the display (R6, R56).
DESIGN CHOICE of the spec (D9, entry 10): 142 is the height. -/
def displayHeight : Nat := 142

/-- The program counter after reset, the entry point of the image (R34, R147). -/
def entryPoint : Addr := 0x0000#16

/-- The nominal step rate, steps per second; advisory, no definition of the model reads it (R6, R155). -/
def nominalStepsPerSecond : Nat := 50

/-- The open entries of the driver's 3-bit red table (R58, D10): a free value, entry 11. -/
opaque freeRed3 : BitVec 3 → Byte

/-- The open entries of the driver's 3-bit green table (R58, D10): a free value, entry 11. -/
opaque freeGreen3 : BitVec 3 → Byte

/-- The open entries of the driver's 2-bit blue table (R58, D10): a free value, entry 11. -/
opaque freeBlue2 : BitVec 2 → Byte

end Sys2Proof.Config
end

