-- ==== Sys2Proof/Syntax.lean ====
section
/-! DEFINITION. The syntax of the instruction set: one constructor of `Instr` for each of the 29 rows
of spec/opcode_table.json (30_encoding.md R72), with the operand bytes the encoding carries (R65 to
R71), and the assembler's source items (R76). An operand has exactly the width of its encoding field,
so every term of `Instr` is well formed; the ignored bytes of format X are kept so that no bit of an
encoding is lost (R69). -/

namespace Sys2Proof

/-- The four instruction formats (R66 to R69). -/
inductive Format where
  /-- Opcode only, 1 byte (R66). -/
  | o
  /-- Opcode and one immediate or offset byte, 2 bytes (R67). -/
  | i
  /-- Opcode and a 16-bit address, high byte first, 3 bytes (R68). -/
  | w
  /-- Opcode and two bytes that are fetched and ignored, 3 bytes (R69). -/
  | x
deriving DecidableEq, Repr

/-- Bytes of an instruction of a format, its opcode byte included (R66 to R70). -/
def Format.length : Format → Nat
  | .o => 1
  | .i => 2
  | .w => 3
  | .x => 3

/-- The 29 instructions (R72). -/
inductive Instr where
  /-- 0x00 NOP (R93). -/
  | nop
  /-- 0x01 OUTA (R94). -/
  | outa
  /-- 0x02 OUTB (R95). -/
  | outb
  /-- 0x10 LDAI imm8 (R96). -/
  | ldai (imm : Byte)
  /-- 0x11 LDBI imm8 (R97). -/
  | ldbi (imm : Byte)
  /-- 0x12 LDPI imm8 (R98). -/
  | ldpi (imm : Byte)
  /-- 0x20 STAP off8 (R99). -/
  | stap (off : Byte)
  /-- 0x21 STBP off8 (R100). -/
  | stbp (off : Byte)
  /-- 0x22 LDAP off8 (R101). -/
  | ldap (off : Byte)
  /-- 0x23 LDBP off8 (R102). -/
  | ldbp (off : Byte)
  /-- 0x24 MOVBA (R103). -/
  | movba
  /-- 0x25 MOVAB (R104). -/
  | movab
  /-- 0x2d PGA (R105). -/
  | pga
  /-- 0x2e PGB (R106). -/
  | pgb
  /-- 0x2f LDPP off8 (R107). -/
  | ldpp (off : Byte)
  /-- 0x30 LDAD addr16 (R108). -/
  | ldad (addr : Addr)
  /-- 0x31 LDAX (R109). -/
  | ldax
  /-- 0x32 LDBX (R110). -/
  | ldbx
  /-- 0x40 ADD (R112). -/
  | add
  /-- 0x41 ADC (R114). -/
  | adc
  /-- 0xf0 JMP addr16 (R118). -/
  | jmp (addr : Addr)
  /-- 0xf1 JMPA (R119). -/
  | jmpa
  /-- 0xf2 JMPAB (R120). -/
  | jmpab
  /-- 0xf3 JC addr16 (R121). -/
  | jc (addr : Addr)
  /-- 0xf4 JCA with its two ignored bytes (R122). -/
  | jca (x1 x2 : Byte)
  /-- 0xf5 JCAB with its two ignored bytes (R123). -/
  | jcab (x1 x2 : Byte)
  /-- 0xf6 JZ addr16 (R124). -/
  | jz (addr : Addr)
  /-- 0xf7 JZB with its two ignored bytes (R125). -/
  | jzb (x1 x2 : Byte)
  /-- 0xff HLT (R127). -/
  | hlt
deriving DecidableEq, Repr

/-- The format of an instruction (the format column of R72). -/
def Instr.format : Instr → Format
  | .nop => .o
  | .outa => .o
  | .outb => .o
  | .ldai _ => .i
  | .ldbi _ => .i
  | .ldpi _ => .i
  | .stap _ => .i
  | .stbp _ => .i
  | .ldap _ => .i
  | .ldbp _ => .i
  | .movba => .o
  | .movab => .o
  | .pga => .o
  | .pgb => .o
  | .ldpp _ => .i
  | .ldad _ => .w
  | .ldax => .o
  | .ldbx => .o
  | .add => .o
  | .adc => .o
  | .jmp _ => .w
  | .jmpa => .o
  | .jmpab => .o
  | .jc _ => .w
  | .jca _ _ => .x
  | .jcab _ _ => .x
  | .jz _ => .w
  | .jzb _ _ => .x
  | .hlt => .o

/-- The length of an instruction in bytes (the length column of R72). -/
def Instr.length (i : Instr) : Nat := i.format.length

/-- The 29 mnemonics of the assembler (R72, R76). The mnemonics are the spec's own (D11, entry 17). -/
inductive Mnemonic where
  | nop | outa | outb | ldai | ldbi | ldpi | stap | stbp | ldap | ldbp | movba | movab | pga | pgb
  | ldpp | ldad | ldax | ldbx | add | adc | jmp | jmpa | jmpab | jc | jca | jcab | jz | jzb | hlt
deriving DecidableEq, Repr

/-- The format a mnemonic assembles to (R72). -/
def Mnemonic.format : Mnemonic → Format
  | .nop | .outa | .outb | .movba | .movab | .pga | .pgb | .ldax | .ldbx | .add | .adc | .jmpa
  | .jmpab | .hlt => .o
  | .ldai | .ldbi | .ldpi | .stap | .stbp | .ldap | .ldbp | .ldpp => .i
  | .ldad | .jmp | .jc | .jz => .w
  | .jca | .jcab | .jzb => .x

/-- An assembler operand: a number or a label (R76). A label is a list of characters. -/
inductive Operand where
  | number (n : Nat)
  | label (name : List Char)
deriving DecidableEq, Repr

/-- One item of assembler source (R76): an instruction, a label, or a directive. -/
inductive SourceItem where
  /-- `MNEMONIC` or `MNEMONIC operand`. -/
  | instr (m : Mnemonic) (operand : Option Operand)
  /-- `label:` names the address of the next instruction. -/
  | label (name : List Char)
  /-- `.org addr16`: the next byte stands at that program address. -/
  | org (addr : Nat)
  /-- `.byte v`: a raw byte. -/
  | byte (v : Nat)
deriving DecidableEq, Repr

end Sys2Proof
end

