-- ==== Sys2Proof/WellFormed.lean ====
section
/-! DEFINITION. Well-formedness. Every term of `Instr` is well formed, because each operand is a bit
vector of its field's own width and every value of every operand byte is legal (30_encoding.md R71,
R75). What can be ill formed is what stands outside the instruction words: a source item of the
assembler (R76) and a program image (70_reset_and_hazards.md R146). -/

namespace Sys2Proof

/-- An operand that stands for an 8-bit `imm8` or `off8`: a number 0 to 255, never a label (R76). -/
def Operand.fitsByte : Operand → Bool
  | .number n => decide (n < 256)
  | .label _ => false

/-- An operand that stands for an `addr16`: a number 0 to 65535, or a label (R76). -/
def Operand.fitsAddr : Operand → Bool
  | .number n => decide (n < 65536)
  | .label _ => true

/-- The operand a mnemonic takes (R76): none for format O, a byte for I, an address for W, an optional
address for X. -/
def operandFits : Format → Option Operand → Bool
  | .o, none => true
  | .o, some _ => false
  | .i, some v => v.fitsByte
  | .i, none => false
  | .w, some v => v.fitsAddr
  | .w, none => false
  | .x, some v => v.fitsAddr
  | .x, none => true

/-- A source item is well formed when its operand has the shape and the range of R76. -/
def SourceItem.wf : SourceItem → Bool
  | .instr m v => operandFits m.format v
  | .label _ => true
  | .org a => decide (a < 65536)
  | .byte v => decide (v < 256)

/-- A program image is well formed when it has at most 65536 bytes (R146; D6: a longer one is
refused). -/
def imageWf (image : List Byte) : Bool := decide (image.length ≤ Config.maxImageSize)

end Sys2Proof
end

