-- ==== Sys2Proof/Decode.lean ====
section
/-! DEFINITION. The decoder, total on any list of bytes, and after it the encoder, both written from
the opcode map of spec 30_encoding.md (R65 to R75). -/

namespace Sys2Proof

/-- `h : l`, the 16-bit value with high byte `h` and low byte `l` (00_scope.md R9, 20_memory.md R51). -/
def pair (hi lo : Byte) : Addr := hi ++ lo

/-- Bits 15:8 of an address (R51). -/
def highByte (a : Addr) : Byte := a.extractLsb' 8 8

/-- Bits 7:0 of an address (R51). -/
def lowByte (a : Addr) : Byte := a.extractLsb' 0 8

/-- What the decoder answers. -/
inductive Decoded where
  /-- An instruction, and the bytes after it. -/
  | instr (i : Instr) (rest : List Byte)
  /-- The first byte is none of the 29 opcodes (R73). -/
  | unimplementedOpcode (op : Byte)
  /-- The bytes end inside the instruction, or there are none. Program memory never ends (R41, R24), so
  no fetch of the machine gives this. -/
  | truncated
deriving DecidableEq, Repr

/-- Format I: one operand byte (R67). -/
def decodeI (mk : Byte → Instr) : List Byte → Decoded
  | v :: rest => .instr (mk v) rest
  | [] => .truncated

/-- Format W: a 16-bit operand, high byte first (R68). -/
def decodeW (mk : Addr → Instr) : List Byte → Decoded
  | hi :: lo :: rest => .instr (mk (pair hi lo)) rest
  | _ => .truncated

/-- Format X: two bytes fetched and ignored; the syntax keeps them, no meaning reads them (R69). -/
def decodeX (mk : Byte → Byte → Instr) : List Byte → Decoded
  | x1 :: x2 :: rest => .instr (mk x1 x2) rest
  | _ => .truncated

/-- The decoder: the opcode map of R72, matching the whole first byte; anything else is rejected by
name (R73, R74). -/
def decode : List Byte → Decoded
  | [] => .truncated
  | op :: rest =>
    match op with
    | 0x00#8 => .instr .nop rest
    | 0x01#8 => .instr .outa rest
    | 0x02#8 => .instr .outb rest
    | 0x10#8 => decodeI .ldai rest
    | 0x11#8 => decodeI .ldbi rest
    | 0x12#8 => decodeI .ldpi rest
    | 0x20#8 => decodeI .stap rest
    | 0x21#8 => decodeI .stbp rest
    | 0x22#8 => decodeI .ldap rest
    | 0x23#8 => decodeI .ldbp rest
    | 0x24#8 => .instr .movba rest
    | 0x25#8 => .instr .movab rest
    | 0x2d#8 => .instr .pga rest
    | 0x2e#8 => .instr .pgb rest
    | 0x2f#8 => decodeI .ldpp rest
    | 0x30#8 => decodeW .ldad rest
    | 0x31#8 => .instr .ldax rest
    | 0x32#8 => .instr .ldbx rest
    | 0x40#8 => .instr .add rest
    | 0x41#8 => .instr .adc rest
    | 0xf0#8 => decodeW .jmp rest
    | 0xf1#8 => .instr .jmpa rest
    | 0xf2#8 => .instr .jmpab rest
    | 0xf3#8 => decodeW .jc rest
    | 0xf4#8 => decodeX .jca rest
    | 0xf5#8 => decodeX .jcab rest
    | 0xf6#8 => decodeW .jz rest
    | 0xf7#8 => decodeX .jzb rest
    | 0xff#8 => .instr .hlt rest
    | _ => .unimplementedOpcode op

/-- Byte `k` of a word whose byte 0 is its least significant one. -/
def wordByte (w k : Nat) : Byte := BitVec.ofNat 8 (w / 256 ^ k)

/-- The bytes of a table word, as program memory stores them: byte 0 of the word, the opcode byte, at
the lowest address; every bit at or above `nbits` is 0; three bytes, the longest instruction (R65). -/
def wordBytes (nbits w : Nat) : List Byte :=
  let w' := w % 2 ^ nbits
  [wordByte w' 0, wordByte w' 1, wordByte w' 2]

/-- The instruction the decoder reads from the bytes of a table word; none where it refuses. -/
def decodeTableWord (nbits w : Nat) : Option Instr :=
  match decode (wordBytes nbits w) with
  | .instr i _ => some i
  | .unimplementedOpcode _ => none
  | .truncated => none

/-- The opcode byte of an instruction (the opcode column of R72). -/
def Instr.opcode : Instr → Byte
  | .nop => 0x00#8
  | .outa => 0x01#8
  | .outb => 0x02#8
  | .ldai _ => 0x10#8
  | .ldbi _ => 0x11#8
  | .ldpi _ => 0x12#8
  | .stap _ => 0x20#8
  | .stbp _ => 0x21#8
  | .ldap _ => 0x22#8
  | .ldbp _ => 0x23#8
  | .movba => 0x24#8
  | .movab => 0x25#8
  | .pga => 0x2d#8
  | .pgb => 0x2e#8
  | .ldpp _ => 0x2f#8
  | .ldad _ => 0x30#8
  | .ldax => 0x31#8
  | .ldbx => 0x32#8
  | .add => 0x40#8
  | .adc => 0x41#8
  | .jmp _ => 0xf0#8
  | .jmpa => 0xf1#8
  | .jmpab => 0xf2#8
  | .jc _ => 0xf3#8
  | .jca _ _ => 0xf4#8
  | .jcab _ _ => 0xf5#8
  | .jz _ => 0xf6#8
  | .jzb _ _ => 0xf7#8
  | .hlt => 0xff#8

/-- The operand bytes of an instruction, in the order they stand after the opcode (R67 to R69). -/
def Instr.operandBytes : Instr → List Byte
  | .nop => []
  | .outa => []
  | .outb => []
  | .ldai imm => [imm]
  | .ldbi imm => [imm]
  | .ldpi imm => [imm]
  | .stap off => [off]
  | .stbp off => [off]
  | .ldap off => [off]
  | .ldbp off => [off]
  | .movba => []
  | .movab => []
  | .pga => []
  | .pgb => []
  | .ldpp off => [off]
  | .ldad addr => [highByte addr, lowByte addr]
  | .ldax => []
  | .ldbx => []
  | .add => []
  | .adc => []
  | .jmp addr => [highByte addr, lowByte addr]
  | .jmpa => []
  | .jmpab => []
  | .jc addr => [highByte addr, lowByte addr]
  | .jca x1 x2 => [x1, x2]
  | .jcab x1 x2 => [x1, x2]
  | .jz addr => [highByte addr, lowByte addr]
  | .jzb x1 x2 => [x1, x2]
  | .hlt => []

/-- The encoder: the opcode byte, then the operand bytes (R65). -/
def encode (i : Instr) : List Byte := i.opcode :: i.operandBytes

/-- The 29 opcode bytes, `OPCODES` of 40_execution_cycle.md R87 (the opcode column of R72). -/
def opcodes : List Byte :=
  [0x00#8, 0x01#8, 0x02#8, 0x10#8, 0x11#8, 0x12#8, 0x20#8, 0x21#8, 0x22#8, 0x23#8, 0x24#8, 0x25#8,
   0x2d#8, 0x2e#8, 0x2f#8, 0x30#8, 0x31#8, 0x32#8, 0x40#8, 0x41#8, 0xf0#8, 0xf1#8, 0xf2#8, 0xf3#8,
   0xf4#8, 0xf5#8, 0xf6#8, 0xf7#8, 0xff#8]

end Sys2Proof
end

