-- ==== Sys2Proof/Machine/State.lean ====
section
/-! DEFINITION. The state of the maze8 CORE (spec 10_state.md R20 to R34), the ways the model stops,
and the state after reset (70_reset_and_hazards.md R145). -/

namespace Sys2Proof.Machine

/-- A memory of 65536 bytes as (address, byte) pairs in one canonical form: addresses strictly rising,
all below 65536, no byte 0x00 listed. An unlisted address reads as 0x00, the reset value of both
memories (R34). -/
abbrev Memory := List Host.Cell

/-- The one cause a fault record can hold (60_exceptions.md R128, R132). -/
inductive FaultCause where
  | unimplementedOpcode
deriving DecidableEq, Repr

/-- The fault record (10_state.md R30, 60_exceptions.md R132, R133). -/
structure FaultRecord where
  /-- The cause. -/
  cause : FaultCause
  /-- The opcode byte that was fetched. -/
  opcode : Byte
  /-- The instruction address. -/
  pc : Addr
deriving DecidableEq, Repr

/-- An event on the `diag` port (40_execution_cycle.md R90). -/
inductive DiagEvent where
  /-- Emitted by OUTA, with the value of A. -/
  | outA (v : Byte)
  /-- Emitted by OUTB, with the value of B. -/
  | outB (v : Byte)
  /-- Emitted by ADD and ADC when their addition overflows 8 bits; no payload (D19, entry 9). -/
  | addOverflow
deriving DecidableEq, Repr

/-- The state (R20), with the event stream (R90) and the load port's interlock (R146). -/
structure State where
  /-- Accumulator A (R21). -/
  a : Byte
  /-- Accumulator B (R22). -/
  b : Byte
  /-- Status byte F, bit 0 the carry flag (R25, R26). -/
  f : Byte
  /-- Paging register P (R29). -/
  p : Byte
  /-- Program counter PC (R23). -/
  pc : Addr
  /-- The halted flag (R28). -/
  halted : Bool
  /-- The fault record, or none (R30). -/
  faulted : Option FaultRecord
  /-- Program memory PM (R31). -/
  pm : Memory
  /-- Data memory DM (R32). -/
  dm : Memory
  /-- The events emitted on `diag` since reset, oldest first (R90).
  DESIGN CHOICE, unsafe (entry 7): the stream begins empty at reset. -/
  diag : List DiagEvent
  /-- Whether the load port takes an image: from reset until the first step request (R146).
  DEDUCED, unsafe (entry 8): the spec names the refusal, not the bit that remembers it. -/
  loadOpen : Bool
deriving DecidableEq, Repr

/-- The faults of the model. No step of the CORE raises one: UnimplementedOpcode, the CORE's only
exception, is taken as a next state that holds the fault record (R128, R129, R132). -/
inductive Fault where
  /-- Raised by `boot` alone, when the image cannot be read: "the engine never starts" (R137, R146).
  Safe: no run is admitted. -/
  | imageUnreadable
deriving DecidableEq, Repr

/-- The refusals of the model. No step of the CORE raises one. -/
inductive Refusal where
  /-- Kept for an instruction without a meaning; `exec` has no such arm. Safe: nothing raises it. -/
  | notModelled (mnemonic : String)
  /-- Raised by `load`: the image has more than 65536 bytes (R146, D6). Safe: no run is admitted. -/
  | imageTooLong
  /-- Raised by `load`: a step has been requested since reset (R146, D18). Safe: no late load is
  admitted. -/
  | loadAfterFirstStep
  /-- Raised by `fbRead`: the address lies below 0x8000 (R54, D1). Safe: no value is given. -/
  | framebufferReadBelowBase
deriving DecidableEq, Repr

/-- The machine right after reset (R34, R145): every register and flag zero, no fault record, both
memories 0x00 in every byte, no event emitted, the load port open. -/
def State.reset : State where
  a := 0x00#8
  b := 0x00#8
  f := 0x00#8
  p := 0x00#8
  pc := Config.entryPoint
  halted := false
  faulted := none
  pm := []
  dm := []
  diag := []
  loadOpen := true

end Sys2Proof.Machine
end

