-- ==== Sys2Proof/Machine/Ops.lean ====
section
/-! DEFINITION. The named operations over memory and registers (spec 00_scope.md R11): reading and
writing a memory byte, fetching bytes at the program counter, writing a register, emitting an event,
and taking the one exception. -/

namespace Sys2Proof.Machine

/-- The answer of a meaning, of a step and of a port that writes state. -/
abbrev Result := Host.Outcome State Fault Refusal

/-- The byte at an address; an unlisted address reads as 0x00 (10_state.md R34; 20_memory.md R43). -/
def Memory.read : Memory → Nat → Byte
  | [], _ => 0x00#8
  | (k, v) :: m, a => if k = a then v else Memory.read m a

/-- The memory after a byte is written; 0x00 is not listed, so the canonical form stands (R44). -/
def Memory.write : Memory → Nat → Byte → Memory
  | [], a, v => if v = 0x00#8 then [] else [(a, v)]
  | (k, x) :: m, a, v =>
    if a < k then (if v = 0x00#8 then (k, x) :: m else (a, v) :: (k, x) :: m)
    else if a = k then (if v = 0x00#8 then m else (a, v) :: m)
    else (k, x) :: Memory.write m a v

/-- The canonical form of a memory from an address on: rising addresses below 65536, no 0x00. -/
def Memory.wfFrom : Nat → Memory → Bool
  | _, [] => true
  | lo, (k, v) :: m =>
    decide (lo ≤ k) && decide (k < Config.memorySize) && decide (v ≠ 0x00#8) && Memory.wfFrom (k + 1) m

/-- The canonical form: equal memories are equal lists. -/
def Memory.wf (m : Memory) : Bool := Memory.wfFrom 0 m

/-- Bytes written one after another from an address on, the address taken modulo 65536 (R24). -/
def Memory.writeBytes (m : Memory) (a : Addr) : List Byte → Memory
  | [] => m
  | v :: vs => Memory.writeBytes (m.write a.toNat v) (a + 1) vs

/-- The program-memory byte at an address, `read_program`: total, no side effect (20_memory.md R41). -/
def State.readProgram (s : State) (addr : Addr) : Byte := s.pm.read addr.toNat

/-- `MemRead(addr, 1)`: total, no side effect (20_memory.md R43). -/
def State.memRead (s : State) (addr : Addr) : Byte := s.dm.read addr.toNat

/-- `MemWrite(addr, 1, v)`: total; nothing but that byte of data memory changes (20_memory.md R44). -/
def State.memWrite (s : State) (addr : Addr) (v : Byte) : State :=
  { s with dm := s.dm.write addr.toNat v }

/-- `A <- v` (R10, R21). -/
def State.setA (s : State) (v : Byte) : State := { s with a := v }

/-- `B <- v` (R10, R22). -/
def State.setB (s : State) (v : Byte) : State := { s with b := v }

/-- `F <- v`, the whole status byte (R10, R25). -/
def State.setF (s : State) (v : Byte) : State := { s with f := v }

/-- `P <- v` (R10, R29). -/
def State.setP (s : State) (v : Byte) : State := { s with p := v }

/-- `PC <- target` (R10, R117). -/
def State.jump (s : State) (target : Addr) : State := { s with pc := target }

/-- PC after `n` fetched bytes: `(PC + n) mod 65536` (10_state.md R23, R24).
The wrap past 0xFFFF is the spec's decision D2 (entry 2). -/
def State.advance (s : State) (n : Nat) : State := { s with pc := s.pc + BitVec.ofNat 16 n }

/-- `halted <- 1` (47_halt.md R127). -/
def State.halt (s : State) : State := { s with halted := true }

/-- `Emit(e)`: appends the event to the `diag` stream (40_execution_cycle.md R90). -/
def State.emit (s : State) (e : DiagEvent) : State := { s with diag := s.diag ++ [e] }

/-- `if cond: Emit(e)` (45_arithmetic.md R112, R114). -/
def State.emitIf (s : State) (cond : Bool) (e : DiagEvent) : State := if cond then s.emit e else s

/-- `FetchByte()`: the program byte at PC, and PC advanced by 1 (00_scope.md R11). -/
def State.fetchByte (s : State) : Byte × State := (s.readProgram s.pc, s.advance 1)

/-- `FetchByte()` repeated: the bytes in order and the state after them (R85). -/
def State.fetchBytes : Nat → State → List Byte × State
  | 0, s => ([], s)
  | n + 1, s =>
    let fetched := s.fetchByte
    let more := State.fetchBytes n fetched.2
    (fetched.1 :: more.1, more.2)

/-- The bytes at PC that the decoder is given: as many as the longest instruction has (R65). A fetch
has no side effect (R53), so a byte the instruction does not use is as if never fetched (entry 19). -/
def State.fetchWindow (s : State) : List Byte := (s.fetchBytes 3).1

/-- The load port closes at the first step request (70_reset_and_hazards.md R146; entry 8). -/
def State.closeLoad (s : State) : State := { s with loadOpen := false }

/-- Taking UnimplementedOpcode (60_exceptions.md R132): the fault record takes the cause, the opcode
byte and the instruction address, and nothing else changes; PC stays at the opcode (C1). Control goes
nowhere: there is no vector, no handler and no saved state beside the record (R131). -/
def State.raiseUnimplementedOpcode (s : State) (op : Byte) : State :=
  { s with faulted := some ⟨FaultCause.unimplementedOpcode, op, s.pc⟩ }

/-- The `reset` request, the only way out of the faulted and of the halted state (R135, R142, R145):
the initial state, whatever the state before. There is no other return from a fault. -/
def State.resetRequest (_ : State) : State := State.reset

/-- The bytes stand at the program counter, and the CORE is neither halted nor faulted, so the next
step fetches them: the load that the host's `withFetchWord` stands for (entry 1). -/
def State.placeAtPc (s : State) (bytes : List Byte) : State :=
  { s with pm := s.pm.writeBytes s.pc bytes, halted := false, faulted := none }

end Sys2Proof.Machine
end

