-- ==== Sys2Proof/Machine/Operands.lean ====
section
/-! DEFINITION. Every operand form of the instruction set (spec 20_memory.md R46 to R50,
30_encoding.md R71): the data addresses of the three addressing modes and the targets of the register
jumps. None does arithmetic; the widths are joined or zero-extended. -/

namespace Sys2Proof.Machine

/-- `zext_16(v)`: the same number in 16 bits (00_scope.md R9). -/
def zext16 (v : Byte) : Addr := v.setWidth 16

/-- `PagedAddr(off)`, the paged address `P : off` (R46, R47). -/
def State.pagedAddr (s : State) (off : Byte) : Addr := pair s.p off

/-- The register pair `A : B`: a data address (R49) or a jump target (R117). -/
def State.pairAB (s : State) : Addr := pair s.a s.b

/-- The target of JMPA and JCA, A zero-extended (R119, R122; for JCA the spec's D4, entry 4). -/
def State.targetA (s : State) : Addr := zext16 s.a

/-- The target of JZB, B zero-extended (R125; the spec's D4, entry 4). -/
def State.targetB (s : State) : Addr := zext16 s.b

/-- The byte a paged load reads (R46, R101, R102, R107). -/
def State.readPaged (s : State) (off : Byte) : Byte := s.memRead (s.pagedAddr off)

/-- A paged store of a byte (R46, R99, R100). -/
def State.storePaged (s : State) (off v : Byte) : State := s.memWrite (s.pagedAddr off) v

/-- The byte a direct load reads; the paging register plays no part (R48, R108). -/
def State.readDirect (s : State) (addr : Addr) : Byte := s.memRead addr

/-- The byte a register-indirect load reads, at the old `A : B` (R49, R109, R110). -/
def State.readIndirect (s : State) : Byte := s.memRead s.pairAB

/-- A conditional jump: `PC <- target` when the condition holds (R117). -/
def State.jumpIf (s : State) (cond : Bool) (target : Addr) : State :=
  if cond then s.jump target else s

end Sys2Proof.Machine
end

