-- ==== Sys2Proof/Machine/Flags.lean ====
section
/-! DEFINITION. The adder and the carry flag (spec 10_state.md R25, R26; 45_arithmetic.md R111 to
R114), and the two jump conditions (46_control_transfer.md R117). -/

namespace Sys2Proof.Machine

/-- The carry flag C, bit 0 of F (R26). -/
def State.carry (s : State) : Bool := s.f[0]

/-- The condition `A = 0` of JZ and JZB; no flag is tested (R117, R124, R125). -/
def State.aIsZero (s : State) : Bool := s.a == 0x00#8

/-- F with its bit 0 replaced; bits 7:1 are unchanged (R25, R112, R114). -/
def withCarry (f : Byte) (c : Bool) : Byte := f.extractLsb' 1 7 ++ BitVec.ofBool c

/-- `F[0] <- c` (R112, R114). -/
def State.setCarry (s : State) (c : Bool) : State := s.setF (withCarry s.f c)

/-- `Add8(x, y)`: the exact sum, its value modulo 256, and whether it exceeded 255 (R111). -/
def add8 (x y : Byte) : Byte × Bool :=
  let t := x.toNat + y.toNat
  (BitVec.ofNat 8 (t % 256), decide (t > 255))

/-- `AdcOperand()`: the exact sum of B and the whole byte F, then its bit 0 (R113; C6, entry 14). -/
def State.adcOperand (s : State) : Byte := BitVec.ofNat 8 ((s.b.toNat + s.f.toNat) &&& 1)

/-- What ADD and ADC share: A takes the sum of A and the operand, C its carry out, and an overflow
emits `AddOverflow` (R112, R114; emitted every time: C2, D8, entry 9). -/
def State.addToA (s : State) (y : Byte) : State :=
  ((s.setA (add8 s.a y).1).setCarry (add8 s.a y).2).emitIf (add8 s.a y).2 DiagEvent.addOverflow

end Sys2Proof.Machine
end

