-- ==== Sys2Proof/Machine/Arithmetic.lean ====
section
/-! DEFINITION. Arithmetic (spec 45_arithmetic.md). -/

namespace Sys2Proof.Machine

/-- ADD (R112): A is A + B modulo 256, C the overflow, `AddOverflow` emitted on overflow. -/
def execAdd (s : State) : Result := .next ((s.advance 1).addToA s.b)

/-- ADC (R113, R114): as ADD, with the operand `(B + F) & 1` in place of B. -/
def execAdc (s : State) : Result := .next ((s.advance 1).addToA s.adcOperand)

end Sys2Proof.Machine
end

