-- ==== Sys2Proof/Machine/Control.lean ====
section
/-! DEFINITION. Jumps and conditional jumps (spec 46_control_transfer.md). All operand bytes are
fetched whatever the outcome (R85, R117; D14, entry 12), then PC is overwritten if the jump is
taken. -/

namespace Sys2Proof.Machine

/-- JMP addr16 (R118). -/
def execJmp (addr : Addr) (s : State) : Result := .next ((s.advance 3).jump addr)

/-- JMPA (R119): to A zero-extended. -/
def execJmpa (s : State) : Result := .next ((s.advance 1).jump s.targetA)

/-- JMPAB (R120): to `A : B`. -/
def execJmpab (s : State) : Result := .next ((s.advance 1).jump s.pairAB)

/-- JC addr16 (R121): to the encoded address if C is set. -/
def execJc (addr : Addr) (s : State) : Result := .next ((s.advance 3).jumpIf s.carry addr)

/-- JCA (R122): to A zero-extended if C is set; the two operand bytes are ignored (C4). -/
def execJca (s : State) : Result := .next ((s.advance 3).jumpIf s.carry s.targetA)

/-- JCAB (R123): to `A : B` if C is set; the two operand bytes are ignored (C4). -/
def execJcab (s : State) : Result := .next ((s.advance 3).jumpIf s.carry s.pairAB)

/-- JZ addr16 (R124): to the encoded address if A is 0x00. -/
def execJz (addr : Addr) (s : State) : Result := .next ((s.advance 3).jumpIf s.aIsZero addr)

/-- JZB (R125): to B zero-extended if A is 0x00; the two operand bytes are ignored (C4). -/
def execJzb (s : State) : Result := .next ((s.advance 3).jumpIf s.aIsZero s.targetB)

end Sys2Proof.Machine
end

