-- ==== Sys2Proof/Machine/DirectIndirect.lean ====
section
/-! DEFINITION. Direct and register-indirect loads (spec 44_direct_indirect.md). P is neither read nor
written, and no flag is written. -/

namespace Sys2Proof.Machine

/-- LDAD addr16 (R108): A is the data byte at the address in the instruction. -/
def execLdad (addr : Addr) (s : State) : Result := .next ((s.advance 3).setA (s.readDirect addr))

/-- LDAX (R109): A is the data byte at the old `A : B`. -/
def execLdax (s : State) : Result := .next ((s.advance 1).setA s.readIndirect)

/-- LDBX (R110): B is the data byte at the old `A : B`. -/
def execLdbx (s : State) : Result := .next ((s.advance 1).setB s.readIndirect)

end Sys2Proof.Machine
end

