-- ==== Sys2Proof/Machine/Halt.lean ====
section
/-! DEFINITION. Halt (spec 47_halt.md). -/

namespace Sys2Proof.Machine

/-- HLT (R127): `halted` is set; PC has advanced past the opcode (C8). -/
def execHlt (s : State) : Result := .next (s.advance 1).halt

end Sys2Proof.Machine
end

