-- ==== Sys2Proof/Machine/Immediate.lean ====
section
/-! DEFINITION. Load immediate (spec 42_load_immediate.md). No flag is written. -/

namespace Sys2Proof.Machine

/-- LDAI imm8 (R96): A is the next program byte. -/
def execLdai (imm : Byte) (s : State) : Result := .next ((s.advance 2).setA imm)

/-- LDBI imm8 (R97): B is the next program byte. -/
def execLdbi (imm : Byte) (s : State) : Result := .next ((s.advance 2).setB imm)

/-- LDPI imm8 (R98): P is the next program byte. -/
def execLdpi (imm : Byte) (s : State) : Result := .next ((s.advance 2).setP imm)

end Sys2Proof.Machine
end

