-- ==== Sys2Proof/Machine/Output.lean ====
section
/-! DEFINITION. No-operation and diagnostic output (spec 41_output_nop.md). Each meaning runs at the
instruction address: `advance` is the fetch of all the instruction's bytes (R84, R85, R88). -/

namespace Sys2Proof.Machine

/-- NOP (R93): no effect. -/
def execNop (s : State) : Result := .next (s.advance 1)

/-- OUTA (R94): emits `OutA(A)`. -/
def execOuta (s : State) : Result := .next ((s.advance 1).emit (DiagEvent.outA s.a))

/-- OUTB (R95): emits `OutB(B)`. -/
def execOutb (s : State) : Result := .next ((s.advance 1).emit (DiagEvent.outB s.b))

end Sys2Proof.Machine
end

