-- ==== Sys2Proof/Machine/Paged.lean ====
section
/-! DEFINITION. Paged stores and loads, register moves, page selection (spec 43_paged_and_moves.md).
No flag is written. -/

namespace Sys2Proof.Machine

/-- STAP off8 (R99): the data byte at `P : off` is A. -/
def execStap (off : Byte) (s : State) : Result := .next ((s.advance 2).storePaged off s.a)

/-- STBP off8 (R100): the data byte at `P : off` is B. -/
def execStbp (off : Byte) (s : State) : Result := .next ((s.advance 2).storePaged off s.b)

/-- LDAP off8 (R101): A is the data byte at `P : off`. -/
def execLdap (off : Byte) (s : State) : Result := .next ((s.advance 2).setA (s.readPaged off))

/-- LDBP off8 (R102): B is the data byte at `P : off`. -/
def execLdbp (off : Byte) (s : State) : Result := .next ((s.advance 2).setB (s.readPaged off))

/-- MOVBA (R103): A is B. -/
def execMovba (s : State) : Result := .next ((s.advance 1).setA s.b)

/-- MOVAB (R104): B is A. -/
def execMovab (s : State) : Result := .next ((s.advance 1).setB s.a)

/-- PGA (R105): P is A. -/
def execPga (s : State) : Result := .next ((s.advance 1).setP s.a)

/-- PGB (R106): P is B. -/
def execPgb (s : State) : Result := .next ((s.advance 1).setP s.b)

/-- LDPP off8 (R107): P is the data byte at the old `P : off`. -/
def execLdpp (off : Byte) (s : State) : Result := .next ((s.advance 2).setP (s.readPaged off))

end Sys2Proof.Machine
end

