-- ==== Sys2Proof/Machine/Dispatch.lean ====
section
/-! DEFINITION. One arm per instruction of the opcode map (spec 30_encoding.md R72). `exec i s` runs
`i` at the instruction address `s.pc`; the step (40_execution_cycle.md R87) decides whether it runs. -/

namespace Sys2Proof.Machine

def exec (i : Instr) (s : State) : Host.Outcome State Fault Refusal :=
  match i with
  | .nop => Sys2Proof.Machine.execNop s
  | .outa => Sys2Proof.Machine.execOuta s
  | .outb => Sys2Proof.Machine.execOutb s
  | .ldai imm => Sys2Proof.Machine.execLdai imm s
  | .ldbi imm => Sys2Proof.Machine.execLdbi imm s
  | .ldpi imm => Sys2Proof.Machine.execLdpi imm s
  | .stap off => Sys2Proof.Machine.execStap off s
  | .stbp off => Sys2Proof.Machine.execStbp off s
  | .ldap off => Sys2Proof.Machine.execLdap off s
  | .ldbp off => Sys2Proof.Machine.execLdbp off s
  | .movba => Sys2Proof.Machine.execMovba s
  | .movab => Sys2Proof.Machine.execMovab s
  | .pga => Sys2Proof.Machine.execPga s
  | .pgb => Sys2Proof.Machine.execPgb s
  | .ldpp off => Sys2Proof.Machine.execLdpp off s
  | .ldad addr => Sys2Proof.Machine.execLdad addr s
  | .ldax => Sys2Proof.Machine.execLdax s
  | .ldbx => Sys2Proof.Machine.execLdbx s
  | .add => Sys2Proof.Machine.execAdd s
  | .adc => Sys2Proof.Machine.execAdc s
  | .jmp addr => Sys2Proof.Machine.execJmp addr s
  | .jmpa => Sys2Proof.Machine.execJmpa s
  | .jmpab => Sys2Proof.Machine.execJmpab s
  | .jc addr => Sys2Proof.Machine.execJc addr s
  | .jca _ _ => Sys2Proof.Machine.execJca s
  | .jcab _ _ => Sys2Proof.Machine.execJcab s
  | .jz addr => Sys2Proof.Machine.execJz addr s
  | .jzb _ _ => Sys2Proof.Machine.execJzb s
  | .hlt => Sys2Proof.Machine.execHlt s

end Sys2Proof.Machine
end

