-- ==== Sys2Proof/Machine/Step.lean ====
section
/-! DEFINITION. One step of the CORE (spec 40_execution_cycle.md R80 to R88). -/

namespace Sys2Proof.Machine

/-- `Step()` (R87): a no-op when faulted (R82) or halted (R81); otherwise the bytes at PC are decoded
and the instruction runs (R83 to R86), or UnimplementedOpcode is taken with the opcode byte at PC
(R84, R132). The fetch window is never truncated, so that case is the fault's. A step that runs closes
the load port (R146, entry 8). -/
def step (s : State) : Host.Outcome State Fault Refusal :=
  if s.faulted.isSome then .next s
  else if s.halted then .next s
  else
    match decode s.fetchWindow with
    | .instr i _ => exec i s.closeLoad
    | .unimplementedOpcode _ => .next (s.closeLoad.raiseUnimplementedOpcode (s.readProgram s.pc))
    | .truncated => .next (s.closeLoad.raiseUnimplementedOpcode (s.readProgram s.pc))

/-- The state with a table word's bytes in program memory at PC, running, so that the very next step
fetches and runs exactly that instruction (entry 1). -/
def State.withFetchWord (s : State) (nbits w : Nat) : State := s.placeAtPc (wordBytes nbits w)

end Sys2Proof.Machine
end

