-- ==== Sys2Proof/Machine/Assembler.lean ====
section
/-! DEFINITION. The assembler of spec 30_encoding.md R76 (the spec's own notation, D11, entry 17): from
lines of text to source items, and from items to the flat program image of 70_reset_and_hazards.md R146.
Notation only; no step of the CORE uses anything of this file. -/

namespace Sys2Proof.Machine

/-- The instruction a mnemonic and its operand value stand for: a byte operand is the value's low byte,
an ignored pair is the value's two bytes, high first (R71, R76). -/
def Mnemonic.build (m : Mnemonic) (v : Addr) : Instr :=
  match m with
  | .nop => .nop
  | .outa => .outa
  | .outb => .outb
  | .ldai => .ldai (lowByte v)
  | .ldbi => .ldbi (lowByte v)
  | .ldpi => .ldpi (lowByte v)
  | .stap => .stap (lowByte v)
  | .stbp => .stbp (lowByte v)
  | .ldap => .ldap (lowByte v)
  | .ldbp => .ldbp (lowByte v)
  | .movba => .movba
  | .movab => .movab
  | .pga => .pga
  | .pgb => .pgb
  | .ldpp => .ldpp (lowByte v)
  | .ldad => .ldad v
  | .ldax => .ldax
  | .ldbx => .ldbx
  | .add => .add
  | .adc => .adc
  | .jmp => .jmp v
  | .jmpa => .jmpa
  | .jmpab => .jmpab
  | .jc => .jc v
  | .jca => .jca (highByte v) (lowByte v)
  | .jcab => .jcab (highByte v) (lowByte v)
  | .jz => .jz v
  | .jzb => .jzb (highByte v) (lowByte v)
  | .hlt => .hlt

/-- The address of the next instruction, the addresses counted from the one given (R76); none if no
instruction follows. A raw byte is no instruction and is passed over (DEDUCED, entry 17). -/
def nextInstructionAddress : Nat → List SourceItem → Option Nat
  | _, [] => none
  | pos, .instr _ _ :: _ => some pos
  | pos, .label _ :: items => nextInstructionAddress pos items
  | _, .org a :: items => nextInstructionAddress a items
  | pos, .byte _ :: items => nextInstructionAddress (pos + 1) items

/-- The address each label names, that of the next instruction (R76), the addresses counted from the one
given. DESIGN CHOICE, safe (entry 17): a label with no instruction after it names the address it stands at,
which at the end of the source is the address after the last item; R76 gives it none. -/
def labelTable : Nat → List SourceItem → List (List Char × Nat)
  | _, [] => []
  | pos, .instr m _ :: items => labelTable (pos + m.format.length) items
  | pos, .label name :: items => (name, (nextInstructionAddress pos items).getD pos) :: labelTable pos items
  | _, .org a :: items => labelTable a items
  | pos, .byte _ :: items => labelTable (pos + 1) items

/-- The value of an operand; an operand left out is 0 (R76). DESIGN CHOICE, safe (entry 17), where R76 is
silent: a label's name is compared letter for letter, case included (R76 calls the mnemonics alone
case-insensitive), and a label that is not defined, or whose address does not fit 16 bits, has no value. -/
def operandValue (labels : List (List Char × Nat)) : Option Operand → Option Addr
  | none => some 0#16
  | some (.number n) => if n < 65536 then some (BitVec.ofNat 16 n) else none
  | some (.label name) =>
    match labels.lookup name with
    | some a => if a < 65536 then some (BitVec.ofNat 16 a) else none
    | none => none

/-- The bytes of the items, each with its address (R76). -/
def placeItems (labels : List (List Char × Nat)) : Nat → List SourceItem → Option (List (Nat × List Byte))
  | _, [] => some []
  | pos, .instr m operand :: items =>
    match operandValue labels operand, placeItems labels (pos + m.format.length) items with
    | some v, some more => some ((pos, encode (Mnemonic.build m v)) :: more)
    | _, _ => none
  | pos, .label _ :: items => placeItems labels pos items
  | _, .org a :: items => placeItems labels a items
  | pos, .byte v :: items =>
    (placeItems labels (pos + 1) items).map fun more => (pos, [BitVec.ofNat 8 v]) :: more

/-- The flat image that holds the placed bytes. DESIGN CHOICE, safe (entry 17), where R76 is silent: an
address no item fills (a gap left by `.org`) is 0x00, and of two items placed at one address (an `.org` back
over bytes already placed) the later in the source overwrites the earlier. -/
def imageOf (placed : List (Nat × List Byte)) : List Byte :=
  let size := (placed.map fun q => q.1 + q.2.length).foldl max 0
  let cells := placed.flatMap fun q => q.2.zipIdx.map fun c => (q.1 + c.2, c.1)
  let m := cells.foldl (fun (acc : Memory) c => acc.write c.1 c.2) []
  (List.range size).map m.read

/-- The image of a list of items. The first item stands at 0x0000 unless `.org` says otherwise (R76).
DESIGN CHOICE, safe (entry 17), where R76 is silent: there is no image if an item is ill formed, a label is
defined twice or not at all, or the image is over 65536 bytes. -/
def assemble (items : List SourceItem) : Option (List Byte) :=
  let labels := labelTable 0 items
  if items.all SourceItem.wf && decide (labels.map Prod.fst).Nodup then
    match placeItems labels 0 items with
    | some placed => if imageWf (imageOf placed) then some (imageOf placed) else none
    | none => none
  else none

/-- The mnemonics as they are written (R72, R76). -/
def mnemonicNames : List (List Char × Mnemonic) :=
  [(['N', 'O', 'P'], .nop), (['O', 'U', 'T', 'A'], .outa), (['O', 'U', 'T', 'B'], .outb),
   (['L', 'D', 'A', 'I'], .ldai), (['L', 'D', 'B', 'I'], .ldbi), (['L', 'D', 'P', 'I'], .ldpi),
   (['S', 'T', 'A', 'P'], .stap), (['S', 'T', 'B', 'P'], .stbp), (['L', 'D', 'A', 'P'], .ldap),
   (['L', 'D', 'B', 'P'], .ldbp), (['M', 'O', 'V', 'B', 'A'], .movba), (['M', 'O', 'V', 'A', 'B'], .movab),
   (['P', 'G', 'A'], .pga), (['P', 'G', 'B'], .pgb), (['L', 'D', 'P', 'P'], .ldpp),
   (['L', 'D', 'A', 'D'], .ldad), (['L', 'D', 'A', 'X'], .ldax), (['L', 'D', 'B', 'X'], .ldbx),
   (['A', 'D', 'D'], .add), (['A', 'D', 'C'], .adc), (['J', 'M', 'P'], .jmp), (['J', 'M', 'P', 'A'], .jmpa),
   (['J', 'M', 'P', 'A', 'B'], .jmpab), (['J', 'C'], .jc), (['J', 'C', 'A'], .jca),
   (['J', 'C', 'A', 'B'], .jcab), (['J', 'Z'], .jz), (['J', 'Z', 'B'], .jzb), (['H', 'L', 'T'], .hlt)]

/-- The value of a digit, if it is one in the base (R76). -/
def digitValue (base : Nat) (c : Char) : Option Nat :=
  let n := c.toUpper.toNat
  let v := if 48 ≤ n ∧ n ≤ 57 then n - 48 else if 65 ≤ n ∧ n ≤ 70 then n - 55 else base
  if v < base then some v else none

/-- The value of digits in a base, from an accumulated value on. -/
def digitsValue (base : Nat) : Nat → List Char → Option Nat
  | acc, [] => some acc
  | acc, c :: cs =>
    match digitValue base c with
    | some d => digitsValue base (base * acc + d) cs
    | none => none

/-- A number, written decimal, `0x..` or `0b..` (R76). DESIGN CHOICE, safe (entry 17): the `x` and the `b`
are small letters. -/
def parseNumber : List Char → Option Nat
  | [] => none
  | '0' :: 'x' :: c :: cs => digitsValue 16 0 (c :: cs)
  | '0' :: 'b' :: c :: cs => digitsValue 2 0 (c :: cs)
  | c :: cs => digitsValue 10 0 (c :: cs)

/-- An operand: a number or a label (R76). DESIGN CHOICE, safe (entry 17): a word that begins with a digit
is a number. -/
def parseOperand : List Char → Option Operand
  | [] => none
  | c :: cs =>
    if c.isDigit then (parseNumber (c :: cs)).map Operand.number else some (.label (c :: cs))

/-- The words of a line, split at blanks (spaces and tabs: DESIGN CHOICE, safe, entry 17); the word being read stands in the argument, reversed. -/
def wordsOf : List Char → List Char → List (List Char)
  | [], [] => []
  | w, [] => [w.reverse]
  | w, c :: cs =>
    if c = ' ' ∨ c = '\t' then
      match w with
      | [] => wordsOf [] cs
      | _ :: _ => w.reverse :: wordsOf [] cs
    else wordsOf (c :: w) cs

/-- The items of the words of one line: labels, then at most one instruction or directive (R76).
DESIGN CHOICE, safe (entry 17), where R76 is silent: a label is any word that ends in a colon, labels may
stand before the instruction of their line, and the directives are read in any case and take one number. -/
def parseWords : List (List Char) → Option (List SourceItem)
  | [] => some []
  | w :: ws =>
    if w.getLast? = some ':' then (parseWords ws).map fun items => .label w.dropLast :: items
    else
      match w.map Char.toUpper, ws with
      | ['.', 'O', 'R', 'G'], [v] => (parseNumber v).map fun n => [.org n]
      | ['.', 'B', 'Y', 'T', 'E'], [v] => (parseNumber v).map fun n => [.byte n]
      | name, [] => (mnemonicNames.lookup name).map fun m => [.instr m none]
      | name, [v] =>
        match mnemonicNames.lookup name, parseOperand v with
        | some m, some operand => some [.instr m (some operand)]
        | _, _ => none
      | _, _ => none

/-- The items of one line; `;` starts a comment (R76). -/
def parseLine (line : List Char) : Option (List SourceItem) :=
  parseWords (wordsOf [] (line.takeWhile (· ≠ ';')))

/-- The items of lines of source text, in order; none if a line does not read (R76). -/
def parseLines : List (List Char) → Option (List SourceItem)
  | [] => some []
  | line :: lines =>
    match parseLine line, parseLines lines with
    | some items, some more => some (items ++ more)
    | _, _ => none

/-- From lines of source text to the program image (R76, R146). -/
def assembleText (lines : List (List Char)) : Option (List Byte) :=
  match parseLines lines with
  | some items => assemble items
  | none => none

end Sys2Proof.Machine
end

