-- ==== Sys2Proof/Machine/Ports.lean ====
section
/-! DEFINITION. The block interface of the CORE beside `step` (spec 00_scope.md R7): reset, load,
halted, fault, diag and fb_read. Each is an atomic transaction between steps. The ports are the spec's
own rendering of software calls (D1, entry 15). -/

namespace Sys2Proof.Machine

/-- The `reset` port (70_reset_and_hazards.md R145). -/
def resetPort (s : State) : Result := .next s.resetRequest

/-- The `load(image)` port (70_reset_and_hazards.md R146): image byte i is written to program address
i. An image over 65536 bytes is refused (D6), and so is a load after the first step request (D18). -/
def load (image : List Byte) (s : State) : Result :=
  if s.loadOpen then
    if imageWf image then .next { s with pm := s.pm.writeBytes Config.entryPoint image }
    else .refused .imageTooLong
  else .refused .loadAfterFirstStep

/-- Startup (70_reset_and_hazards.md R149): reset, then the load of the image the loader could read, or
none. An unreadable image is the fatal startup error: the engine never starts (60_exceptions.md R137). -/
def boot : Option (List Byte) → Result
  | some image => load image State.reset
  | none => .fault .imageUnreadable

/-- The `halted` port (10_state.md R28). -/
def haltedPort (s : State) : Bool := s.halted

/-- The cause code on the `fault` port (60_exceptions.md R133; the code is the spec's D17, entry 15). -/
def FaultCause.code : FaultCause → Nat
  | .unimplementedOpcode => 1

/-- The cause code, 0 for no fault (60_exceptions.md R133). -/
def faultCode (s : State) : Nat :=
  match s.faulted with
  | none => 0
  | some r => r.cause.code

/-- The `fault` port: the cause code, and with a fault the opcode byte and the instruction address
(60_exceptions.md R133). -/
def faultPort (s : State) : Nat × Option (Byte × Addr) :=
  (faultCode s, s.faulted.map fun r => (r.opcode, r.pc))

/-- The `diag` port: the events emitted since reset, oldest first (40_execution_cycle.md R90). -/
def diagPort (s : State) : List DiagEvent := s.diag

/-- The `fb_read(addr)` port: the data byte for an address of the framebuffer region, a refusal below
it (20_memory.md R54; D1). It changes no state. -/
def fbRead (addr : Addr) (s : State) : Host.Outcome Byte Fault Refusal :=
  if Config.framebufferBase ≤ addr then .next (s.memRead addr)
  else .refused .framebufferReadBelowBase

end Sys2Proof.Machine
end

