-- ==== Sys2Proof/Machine/Display.lean ====
section
/-! DEFINITION. The framebuffer alias as the display driver reads it (spec 20_memory.md R54 to R58):
the pixel layout, the pixel format, and the colour tables, whose entries are open but for three (D10).
No step of the CORE uses anything of this file. -/

namespace Sys2Proof.Machine

/-- The data address of pixel (x, y): `0x8000 + 228*y + x` (R56; D9, entry 10). -/
def pixelAddr (x : Fin Config.displayWidth) (y : Fin Config.displayHeight) : Addr :=
  BitVec.ofNat 16 (Config.framebufferBase.toNat + Config.displayWidth * y.val + x.val)

/-- The offset of a data address in the framebuffer region (R56). -/
def pixelIndex (addr : Addr) : Nat := addr.toNat - Config.framebufferBase.toNat

/-- The pixel a data address holds, column and row; none below the region and none for the 392 bytes
past the last pixel (R56, R57; D9, entry 10). -/
def pixelAt (addr : Addr) : Option (Nat × Nat) :=
  if Config.framebufferBase.toNat ≤ addr.toNat ∧
      pixelIndex addr < Config.displayWidth * Config.displayHeight then
    some (pixelIndex addr % Config.displayWidth, pixelIndex addr / Config.displayWidth)
  else none

/-- The three colour indices of a framebuffer byte, `[RRR GGG BB]` (R58). -/
structure PixelFields where
  red : BitVec 3
  green : BitVec 3
  blue : BitVec 2
deriving DecidableEq, Repr

/-- Red is bits 7:5, green bits 4:2, blue bits 1:0 (R58). -/
def pixelFields (v : Byte) : PixelFields where
  red := v.extractLsb' 5 3
  green := v.extractLsb' 2 3
  blue := v.extractLsb' 0 2

/-- `lut_red3`: entry 7 is 255, the others are open (R58, D10, entry 11). -/
def lutRed3 (r : BitVec 3) : Byte := if r = 7#3 then 255#8 else Config.freeRed3 r

/-- `lut_green3`: entry 0 is 0, the others are open (R58, D10, entry 11). -/
def lutGreen3 (g : BitVec 3) : Byte := if g = 0#3 then 0#8 else Config.freeGreen3 g

/-- `lut_blue2`: entry 0 is 0, the others are open (R58, D10, entry 11). -/
def lutBlue2 (b : BitVec 2) : Byte := if b = 0#2 then 0#8 else Config.freeBlue2 b

/-- The colour of a framebuffer byte: red, green and blue channel values (R58). -/
def colourOf (v : Byte) : Byte × Byte × Byte :=
  let c := pixelFields v
  (lutRed3 c.red, lutGreen3 c.green, lutBlue2 c.blue)

/-- The colour the driver shows at pixel (x, y), read between steps (R54, R56, R58, R59). -/
def State.pixelColour (s : State) (x : Fin Config.displayWidth) (y : Fin Config.displayHeight) :
    Byte × Byte × Byte :=
  colourOf (s.memRead (pixelAddr x y))

end Sys2Proof.Machine
end

