-- ==== Sys2Proof/Safety.lean ====
section
/-! DEFINITION. The terms in which claims about the CORE are stated: running and stopped states and the
end of a run (spec 40_execution_cycle.md R92), the invariant of a step boundary, the access matrix
(10_state.md R33) and the outcome of the jump conditions (46_control_transfer.md R117). -/

namespace Sys2Proof.Machine

/-- A state whose next step fetches an opcode: neither faulted nor halted (R81, R82, R83). -/
abbrev State.running (s : State) : Prop := s.faulted = none ∧ s.halted = false

/-- A run has ended well when HLT has executed (R92). -/
abbrev State.endedWell (s : State) : Prop := s.halted = true

/-- A run has ended in failure when a fault record stands (R92). -/
abbrev State.endedInFailure (s : State) : Prop := s.faulted ≠ none

/-- `n` step requests, one after another, to the first that answers no state (R80, R92). -/
def run : Nat → State → Result
  | 0, s => .next s
  | n + 1, s =>
    match step s with
    | .next t => run n t
    | .fault r => .fault r
    | .refused r => .refused r

/-- A fault record tells the truth: the opcode byte at the recorded address is the recorded one and none
of the 29 opcodes, and PC stands at it (R132, R133). -/
def State.faultRecordTrue (s : State) : Bool :=
  match s.faulted with
  | none => true
  | some r => r.pc == s.pc && r.opcode == s.readProgram s.pc && !opcodes.contains r.opcode

/-- The invariant of a step boundary: F is 0x00 or 0x01 (R27); both memories are in canonical form;
halted and faulted are never both set (R92); a stopped CORE has a closed load port (R146); and the fault
record tells the truth (R133). -/
abbrev State.Inv (s : State) : Prop :=
  (s.f = 0x00#8 ∨ s.f = 0x01#8) ∧ s.pm.wf = true ∧ s.dm.wf = true ∧
  ¬(s.endedWell ∧ s.endedInFailure) ∧ (s.loadOpen = true → s.running) ∧ s.faultRecordTrue = true

end Sys2Proof.Machine

namespace Sys2Proof

/-- Whether an instruction reads A (the A column of R33, the readers of R21). -/
def Instr.readsA : Instr → Bool
  | .outa | .stap _ | .movab | .pga | .ldax | .ldbx | .add | .adc | .jmpa | .jmpab | .jca _ _
  | .jcab _ _ | .jz _ | .jzb _ _ => true
  | .nop | .outb | .ldai _ | .ldbi _ | .ldpi _ | .stbp _ | .ldap _ | .ldbp _ | .movba | .pgb | .ldpp _
  | .ldad _ | .jmp _ | .jc _ | .hlt => false

/-- Whether an instruction writes A (R21, R33). -/
def Instr.writesA : Instr → Bool
  | .ldai _ | .ldap _ | .movba | .ldad _ | .ldax | .add | .adc => true
  | .nop | .outa | .outb | .ldbi _ | .ldpi _ | .stap _ | .stbp _ | .ldbp _ | .movab | .pga | .pgb
  | .ldpp _ | .ldbx | .jmp _ | .jmpa | .jmpab | .jc _ | .jca _ _ | .jcab _ _ | .jz _ | .jzb _ _
  | .hlt => false

/-- Whether an instruction reads B (R22, R33). -/
def Instr.readsB : Instr → Bool
  | .outb | .stbp _ | .movba | .pgb | .ldax | .ldbx | .add | .adc | .jmpab | .jcab _ _ | .jzb _ _ => true
  | .nop | .outa | .ldai _ | .ldbi _ | .ldpi _ | .stap _ | .ldap _ | .ldbp _ | .movab | .pga | .ldpp _
  | .ldad _ | .jmp _ | .jmpa | .jc _ | .jca _ _ | .jz _ | .hlt => false

/-- Whether an instruction writes B (R22, R33). -/
def Instr.writesB : Instr → Bool
  | .ldbi _ | .ldbp _ | .movab | .ldbx => true
  | .nop | .outa | .outb | .ldai _ | .ldpi _ | .stap _ | .stbp _ | .ldap _ | .movba | .pga | .pgb
  | .ldpp _ | .ldad _ | .ldax | .add | .adc | .jmp _ | .jmpa | .jmpab | .jc _ | .jca _ _ | .jcab _ _
  | .jz _ | .jzb _ _ | .hlt => false

/-- Whether an instruction reads F or its carry bit (R26, R33). ADD and ADC keep bits 7:1. -/
def Instr.readsF : Instr → Bool
  | .adc | .jc _ | .jca _ _ | .jcab _ _ => true
  | .nop | .outa | .outb | .ldai _ | .ldbi _ | .ldpi _ | .stap _ | .stbp _ | .ldap _ | .ldbp _ | .movba
  | .movab | .pga | .pgb | .ldpp _ | .ldad _ | .ldax | .ldbx | .add | .jmp _ | .jmpa | .jmpab | .jz _
  | .jzb _ _ | .hlt => false

/-- Whether an instruction writes the carry flag (R26, R33). -/
def Instr.writesF : Instr → Bool
  | .add | .adc => true
  | .nop | .outa | .outb | .ldai _ | .ldbi _ | .ldpi _ | .stap _ | .stbp _ | .ldap _ | .ldbp _ | .movba
  | .movab | .pga | .pgb | .ldpp _ | .ldad _ | .ldax | .ldbx | .jmp _ | .jmpa | .jmpab | .jc _ | .jca _ _
  | .jcab _ _ | .jz _ | .jzb _ _ | .hlt => false

/-- Whether an instruction reads P (R29, R33). -/
def Instr.readsP : Instr → Bool
  | .stap _ | .stbp _ | .ldap _ | .ldbp _ | .ldpp _ => true
  | .nop | .outa | .outb | .ldai _ | .ldbi _ | .ldpi _ | .movba | .movab | .pga | .pgb | .ldad _ | .ldax
  | .ldbx | .add | .adc | .jmp _ | .jmpa | .jmpab | .jc _ | .jca _ _ | .jcab _ _ | .jz _ | .jzb _ _
  | .hlt => false

/-- Whether an instruction writes P (R29, R33). -/
def Instr.writesP : Instr → Bool
  | .ldpi _ | .pga | .pgb | .ldpp _ => true
  | .nop | .outa | .outb | .ldai _ | .ldbi _ | .stap _ | .stbp _ | .ldap _ | .ldbp _ | .movba | .movab
  | .ldad _ | .ldax | .ldbx | .add | .adc | .jmp _ | .jmpa | .jmpab | .jc _ | .jca _ _ | .jcab _ _
  | .jz _ | .jzb _ _ | .hlt => false

/-- Whether an instruction is one of the two stores (R45). -/
def Instr.isStore : Instr → Bool
  | .stap _ | .stbp _ => true
  | .nop | .outa | .outb | .ldai _ | .ldbi _ | .ldpi _ | .ldap _ | .ldbp _ | .movba | .movab | .pga | .pgb
  | .ldpp _ | .ldad _ | .ldax | .ldbx | .add | .adc | .jmp _ | .jmpa | .jmpab | .jc _ | .jca _ _
  | .jcab _ _ | .jz _ | .jzb _ _ | .hlt => false

/-- The events an instruction emits when it runs in a state, in plain numbers (R90, R91, R94, R95, R112,
R114; the notice emitted every time and without payload: C2, D8, D19, entry 9). -/
def Instr.expectedEvents (i : Instr) (s : Machine.State) : List Machine.DiagEvent :=
  match i with
  | .outa => [.outA s.a]
  | .outb => [.outB s.b]
  | .add => if s.a.toNat + s.b.toNat > 255 then [.addOverflow] else []
  | .adc => if s.a = 0xff#8 ∧ (s.b.toNat + s.f.toNat) % 2 = 1 then [.addOverflow] else []
  | .nop | .ldai _ | .ldbi _ | .ldpi _ | .stap _ | .stbp _ | .ldap _ | .ldbp _ | .movba | .movab | .pga
  | .pgb | .ldpp _ | .ldad _ | .ldax | .ldbx | .jmp _ | .jmpa | .jmpab | .jc _ | .jca _ _ | .jcab _ _
  | .jz _ | .jzb _ _ | .hlt => []

/-- Whether an instruction is a jump, conditional or not (46_control_transfer.md). -/
def Instr.isJump : Instr → Bool
  | .jmp _ | .jmpa | .jmpab | .jc _ | .jca _ _ | .jcab _ _ | .jz _ | .jzb _ _ => true
  | .nop | .outa | .outb | .ldai _ | .ldbi _ | .ldpi _ | .stap _ | .stbp _ | .ldap _ | .ldbp _ | .movba
  | .movab | .pga | .pgb | .ldpp _ | .ldad _ | .ldax | .ldbx | .add | .adc | .hlt => false

end Sys2Proof
end

