-- ==== Sys2Proof/Certificates/Slice0/Obligations.lean ====
section
/-! DEFINITION. The statements about the model, for the provers. A record equation
`exec i s = .next ⟨s with …⟩` says the whole frame: every field not named keeps its value. PC is
computed in 16 bits everywhere; that it wraps past 0xFFFF is the spec's decision D2 (entry 2). -/

open Sys2Proof Sys2Proof.Machine

/-! ## Reset -/

/-- The state after reset (10_state.md section 8, 70_reset_and_hazards.md section 1). That no fault record
stands is the spec's D3 (entry 3), the zero program memory D5 (entry 5), the reset operation D7, the empty
event stream and the open load port the model's choice and inference (entries 7 and 8). -/
def Obligations.ResetLeavesEverythingZero : Prop :=
  State.reset.a = 0x00#8 ∧ State.reset.b = 0x00#8 ∧ State.reset.f = 0x00#8 ∧ State.reset.p = 0x00#8 ∧
  State.reset.pc = 0x0000#16 ∧ State.reset.halted = false ∧ State.reset.faulted = none ∧
  State.reset.diag = [] ∧ State.reset.loadOpen = true ∧
  ∀ addr : Addr, State.reset.memRead addr = 0x00#8 ∧ State.reset.readProgram addr = 0x00#8

/-! ## What each instruction does -/

/-- R93: NOP, its encoding and its effect. -/
def Obligations.NopOnlyAdvancesThePc : Prop :=
  ∀ (s : State) (rest : List Byte),
    decode (0x00#8 :: rest) = .instr .nop rest ∧ exec .nop s = .next { s with pc := s.pc + 1 }

/-- R94, R95: OUTA and OUTB emit their accumulator and change nothing else but PC. -/
def Obligations.OutputEmitsItsAccumulator : Prop :=
  ∀ (s : State) (rest : List Byte),
    decode (0x01#8 :: rest) = .instr .outa rest ∧
    exec .outa s = .next { s with pc := s.pc + 1, diag := s.diag ++ [DiagEvent.outA s.a] } ∧
    decode (0x02#8 :: rest) = .instr .outb rest ∧
    exec .outb s = .next { s with pc := s.pc + 1, diag := s.diag ++ [DiagEvent.outB s.b] }

/-- R96, R97, R98: LDAI, LDBI and LDPI. -/
def Obligations.LoadImmediateWritesItsRegister : Prop :=
  ∀ (s : State) (imm : Byte) (rest : List Byte),
    decode (0x10#8 :: imm :: rest) = .instr (.ldai imm) rest ∧
    exec (.ldai imm) s = .next { s with a := imm, pc := s.pc + 2 } ∧
    decode (0x11#8 :: imm :: rest) = .instr (.ldbi imm) rest ∧
    exec (.ldbi imm) s = .next { s with b := imm, pc := s.pc + 2 } ∧
    decode (0x12#8 :: imm :: rest) = .instr (.ldpi imm) rest ∧
    exec (.ldpi imm) s = .next { s with p := imm, pc := s.pc + 2 }

/-- R99, R100: STAP and STBP store one byte at `P : off`; every other byte of data memory, every register,
flag and the event stream are kept. The byte reads back wherever data memory has its canonical form, an
invariant of the model (`EveryStepKeepsTheInvariant`). -/
def Obligations.PagedStoreWritesOneByte : Prop :=
  ∀ (s : State) (off : Byte) (rest : List Byte),
    s.pagedAddr off = s.p ++ off ∧
    decode (0x20#8 :: off :: rest) = .instr (.stap off) rest ∧
    (∃ t, exec (.stap off) s = .next t ∧ t = { s with pc := s.pc + 2, dm := t.dm } ∧
      (s.dm.wf = true → t.memRead (s.pagedAddr off) = s.a) ∧
      ∀ addr, addr ≠ s.pagedAddr off → t.memRead addr = s.memRead addr) ∧
    decode (0x21#8 :: off :: rest) = .instr (.stbp off) rest ∧
    (∃ t, exec (.stbp off) s = .next t ∧ t = { s with pc := s.pc + 2, dm := t.dm } ∧
      (s.dm.wf = true → t.memRead (s.pagedAddr off) = s.b) ∧
      ∀ addr, addr ≠ s.pagedAddr off → t.memRead addr = s.memRead addr)

/-- R101, R102, R107: LDAP, LDBP and LDPP load the data byte at the old `P : off`. -/
def Obligations.PagedLoadReadsItsPage : Prop :=
  ∀ (s : State) (off : Byte) (rest : List Byte),
    decode (0x22#8 :: off :: rest) = .instr (.ldap off) rest ∧
    exec (.ldap off) s = .next { s with a := s.memRead (s.p ++ off), pc := s.pc + 2 } ∧
    decode (0x23#8 :: off :: rest) = .instr (.ldbp off) rest ∧
    exec (.ldbp off) s = .next { s with b := s.memRead (s.p ++ off), pc := s.pc + 2 } ∧
    decode (0x2f#8 :: off :: rest) = .instr (.ldpp off) rest ∧
    exec (.ldpp off) s = .next { s with p := s.memRead (s.p ++ off), pc := s.pc + 2 }

/-- R103, R104: MOVBA and MOVAB. -/
def Obligations.MovesCopyTheOtherAccumulator : Prop :=
  ∀ (s : State) (rest : List Byte),
    decode (0x24#8 :: rest) = .instr .movba rest ∧
    exec .movba s = .next { s with a := s.b, pc := s.pc + 1 } ∧
    decode (0x25#8 :: rest) = .instr .movab rest ∧
    exec .movab s = .next { s with b := s.a, pc := s.pc + 1 }

/-- R105, R106: PGA and PGB. -/
def Obligations.PageSelectCopiesAnAccumulator : Prop :=
  ∀ (s : State) (rest : List Byte),
    decode (0x2d#8 :: rest) = .instr .pga rest ∧
    exec .pga s = .next { s with p := s.a, pc := s.pc + 1 } ∧
    decode (0x2e#8 :: rest) = .instr .pgb rest ∧
    exec .pgb s = .next { s with p := s.b, pc := s.pc + 1 }

/-- R108: LDAD loads from the address in the instruction, high byte first. -/
def Obligations.DirectLoadReadsTheEncodedAddress : Prop :=
  ∀ (s : State) (hi lo : Byte) (rest : List Byte),
    decode (0x30#8 :: hi :: lo :: rest) = .instr (.ldad (hi ++ lo)) rest ∧
    exec (.ldad (hi ++ lo)) s = .next { s with a := s.memRead (hi ++ lo), pc := s.pc + 3 }

/-- R109, R110: LDAX and LDBX load from the old `A : B`. -/
def Obligations.IndirectLoadReadsTheOldPair : Prop :=
  ∀ (s : State) (rest : List Byte),
    decode (0x31#8 :: rest) = .instr .ldax rest ∧
    exec .ldax s = .next { s with a := s.memRead (s.a ++ s.b), pc := s.pc + 1 } ∧
    decode (0x32#8 :: rest) = .instr .ldbx rest ∧
    exec .ldbx s = .next { s with b := s.memRead (s.a ++ s.b), pc := s.pc + 1 }

/-- R112: ADD. A, C and the event stream are the only changes besides PC; bits 7:1 of F are kept. The notice
on every overflow is what R112 says; that 'optionally' elsewhere does not count is C2, D8 (entry 9). -/
def Obligations.AddWritesSumCarryAndNotice : Prop :=
  ∀ (s : State) (rest : List Byte),
    decode (0x40#8 :: rest) = .instr .add rest ∧
    ∃ t, exec .add s = .next t ∧
      t = { s with a := t.a, f := t.f, diag := t.diag, pc := s.pc + 1 } ∧
      t.a.toNat = (s.a.toNat + s.b.toNat) % 256 ∧
      (t.f[0] = true ↔ s.a.toNat + s.b.toNat > 255) ∧
      (∀ k, 1 ≤ k → t.f.getLsbD k = s.f.getLsbD k) ∧
      t.diag = s.diag ++ if s.a.toNat + s.b.toNat > 255 then [DiagEvent.addOverflow] else []

/-- R113, R114: ADC, with the operand `(B + F) & 1`, the whole status byte added: the literal reading that
R113 makes normative (C6, entry 14). -/
def Obligations.AdcAddsOneBitOfBPlusStatus : Prop :=
  ∀ (s : State) (rest : List Byte),
    decode (0x41#8 :: rest) = .instr .adc rest ∧
    ∃ t, exec .adc s = .next t ∧
      t = { s with a := t.a, f := t.f, diag := t.diag, pc := s.pc + 1 } ∧
      t.a.toNat = (s.a.toNat + ((s.b.toNat + s.f.toNat) &&& 1)) % 256 ∧
      (t.f[0] = true ↔ s.a.toNat + ((s.b.toNat + s.f.toNat) &&& 1) > 255) ∧
      (∀ k, 1 ≤ k → t.f.getLsbD k = s.f.getLsbD k) ∧
      t.diag = s.diag ++
        if s.a.toNat + ((s.b.toNat + s.f.toNat) &&& 1) > 255 then [DiagEvent.addOverflow] else []

/-- 45_arithmetic.md section 3 (the derived law of ADC): where F is 0x00 or 0x01, ADC adds 1 exactly when
bit 0 of B differs from the carry flag. It sets the carry only at A = 0xFF. -/
def Obligations.AdcIsAParityIncrement : Prop :=
  ∀ s : State, s.f = 0x00#8 ∨ s.f = 0x01#8 →
    ∃ t, exec .adc s = .next t ∧
      t.a = (if s.b[0] = s.f[0] then s.a else s.a + 1#8) ∧
      t.f = (if s.a = 0xff#8 ∧ s.b[0] ≠ s.f[0] then 0x01#8 else 0x00#8)

/-- 45_arithmetic.md section 3: ADD is commutative in what it writes to A and F, and adding 0xFF counts
down, clearing the carry exactly at A = 0x00. -/
def Obligations.AddCommutesAndCountsDown : Prop :=
  ∀ (s : State) (x y : Byte),
    (∃ t u, exec .add { s with a := x, b := y } = .next t ∧ exec .add { s with a := y, b := x } = .next u ∧
      t.a = u.a ∧ t.f = u.f ∧ t.diag = u.diag) ∧
    (∃ t, exec .add { s with a := x, b := 0xff#8 } = .next t ∧ t.a = x - 1#8 ∧
      (t.f[0] = false ↔ x = 0x00#8))

/-- R118, R119, R120: JMP, JMPA and JMPAB write PC alone. -/
def Obligations.UnconditionalJumpsGoToTheirTarget : Prop :=
  ∀ (s : State) (hi lo : Byte) (rest : List Byte),
    decode (0xf0#8 :: hi :: lo :: rest) = .instr (.jmp (hi ++ lo)) rest ∧
    exec (.jmp (hi ++ lo)) s = .next { s with pc := hi ++ lo } ∧
    decode (0xf1#8 :: rest) = .instr .jmpa rest ∧
    exec .jmpa s = .next { s with pc := 0x00#8 ++ s.a } ∧
    decode (0xf2#8 :: rest) = .instr .jmpab rest ∧
    exec .jmpab s = .next { s with pc := s.a ++ s.b }

/-- R121, R123, R124: JC, JCAB and JZ, taken and not taken. -/
def Obligations.ConditionalJumpsTestTheirCondition : Prop :=
  ∀ (s : State) (hi lo : Byte) (rest : List Byte),
    decode (0xf3#8 :: hi :: lo :: rest) = .instr (.jc (hi ++ lo)) rest ∧
    exec (.jc (hi ++ lo)) s = .next { s with pc := if s.f[0] then hi ++ lo else s.pc + 3 } ∧
    decode (0xf5#8 :: hi :: lo :: rest) = .instr (.jcab hi lo) rest ∧
    exec (.jcab hi lo) s = .next { s with pc := if s.f[0] then s.a ++ s.b else s.pc + 3 } ∧
    decode (0xf6#8 :: hi :: lo :: rest) = .instr (.jz (hi ++ lo)) rest ∧
    exec (.jz (hi ++ lo)) s = .next { s with pc := if s.a = 0x00#8 then hi ++ lo else s.pc + 3 }

/-- 46_control_transfer.md section 3: JCA and JZB. That their 8-bit target is zero-extended is the spec's
decision D4 (entry 4). -/
def Obligations.ByteTargetConditionalJumpsZeroExtend : Prop :=
  ∀ (s : State) (x1 x2 : Byte) (rest : List Byte),
    decode (0xf4#8 :: x1 :: x2 :: rest) = .instr (.jca x1 x2) rest ∧
    exec (.jca x1 x2) s = .next { s with pc := if s.f[0] then 0x00#8 ++ s.a else s.pc + 3 } ∧
    decode (0xf7#8 :: x1 :: x2 :: rest) = .instr (.jzb x1 x2) rest ∧
    exec (.jzb x1 x2) s = .next { s with pc := if s.a = 0x00#8 then 0x00#8 ++ s.b else s.pc + 3 }

/-- R127: HLT sets the halted flag, PC stands after it, and no later step changes anything. -/
def Obligations.HltStopsTheMachineForGood : Prop :=
  ∀ (s : State) (rest : List Byte),
    decode (0xff#8 :: rest) = .instr .hlt rest ∧
    exec .hlt s = .next { s with halted := true, pc := s.pc + 1 } ∧
    ∀ n, run n { s with halted := true, pc := s.pc + 1 } = .next { s with halted := true, pc := s.pc + 1 }

/-! ## The step -/

/-- R81: a step of a halted CORE changes nothing and emits nothing. -/
def Obligations.HaltedStepIsANoOp : Prop :=
  ∀ s : State, s.halted = true → step s = .next s

/-- Once halted is set, no run changes any state (R35, 10_state.md section 8), and reset re-creates the
initial state (R135 and R145, 60_exceptions.md and 70_reset_and_hazards.md section 1). The reset port and that
it answers exactly the reset state are the spec's decision D7 (entry 7), not the source's words. -/
def Obligations.HaltedStateIsFinalUntilReset : Prop :=
  ∀ (s : State) (n : Nat), s.halted = true → run n s = .next s ∧ resetPort s = .next State.reset

/-- 60_exceptions.md sections 1 (the fault record and the stop): a faulted CORE is final until reset. The
record and the stop are the spec's decision D3 (entry 3). -/
def Obligations.FaultedStateIsFinalUntilReset : Prop :=
  ∀ (s : State) (n : Nat), s.faulted ≠ none → run n s = .next s ∧ resetPort s = .next State.reset

/-- 40_execution_cycle.md section 1: when the bytes at PC decode to an instruction, the step of a running
CORE is `exec` of it; around it the step closes the load port (the model's inference, entry 8). The fetch
window is the program bytes at PC, PC + 1 and PC + 2. -/
def Obligations.StepRunsTheDecodedInstruction : Prop :=
  ∀ (s : State) (i : Instr) (rest : List Byte), s.running → decode s.fetchWindow = .instr i rest →
    s.fetchWindow = [s.readProgram s.pc, s.readProgram (s.pc + 1), s.readProgram (s.pc + 2)] ∧
    step s = exec i { s with loadOpen := false }

/-- 40_execution_cycle.md section 1, 30_encoding.md section 1: when the program bytes at PC are the
encoding of an instruction, wherever it stands (also across 0xFFFF, D2, entry 2), the step runs it. -/
def Obligations.StepRunsTheEncodedBytesAtPc : Prop :=
  ∀ (s : State) (i : Instr), s.running →
    (∀ k b, (encode i)[k]? = some b → s.readProgram (s.pc + BitVec.ofNat 16 k) = b) →
    step s = exec i { s with loadOpen := false }

/-- R84: a running CORE executes the instruction if the opcode byte is one of the 29, and otherwise raises
UnimplementedOpcode and changes nothing else. (The load port's interlock is no state of R84: entry 8.) -/
def Obligations.StepDecodesOrRaisesUnimplementedOpcode : Prop :=
  ∀ s : State, s.running →
    (s.readProgram s.pc ∈ opcodes →
      ∃ i rest, decode s.fetchWindow = .instr i rest ∧ i.opcode = s.readProgram s.pc ∧
        step s = exec i { s with loadOpen := false }) ∧
    (s.readProgram s.pc ∉ opcodes →
      ∃ t r, step s = .next t ∧ r.cause = FaultCause.unimplementedOpcode ∧
        t = { s with faulted := some r, loadOpen := t.loadOpen })

/-- 60_exceptions.md section 1 (UnimplementedOpcode): the record holds the cause, the opcode byte and the
instruction address, and nothing else changes. The record is the spec's decision D3 (entry 3); that the
step closes the load port is the model's inference (entry 8). -/
def Obligations.IllegalOpcodeIsRecordedPrecisely : Prop :=
  ∀ s : State, s.running → s.readProgram s.pc ∉ opcodes →
    step s = .next { s with
      faulted := some ⟨FaultCause.unimplementedOpcode, s.readProgram s.pc, s.pc⟩, loadOpen := false }

/-- 60_exceptions.md sections 1 and 3 (no stuck state): every instruction, every step and every run of
steps, from any state, answers a next state. That the step at an illegal opcode answers one too, with the
fault record in it, is the spec's decision D3 taken as a next state (entry 3). So the statement does not say
which steps set the record: `OnlyWritersChangeTheirState` and `ControlStateChangesHaveTheirCause` do. -/
def Obligations.EveryStepAnswersANextState : Prop :=
  (∀ (i : Instr) (s : State), ∃ t, exec i s = .next t) ∧
  ∀ (n : Nat) (s : State), ∃ t, run n s = .next t

/-- 40_execution_cycle.md sections 1 and 2 (PC after a step): a step that runs an instruction that is no
jump leaves PC at the byte after the instruction. -/
def Obligations.StraightStepsAdvanceByTheLength : Prop :=
  ∀ (s t : State) (i : Instr) (rest : List Byte), s.running → decode s.fetchWindow = .instr i rest →
    i.isJump = false → step s = .next t → t.pc = s.pc + BitVec.ofNat 16 i.length

/-- 30_encoding.md section 6, 10_state.md section 3: an instruction at 0xFFFF takes its operand bytes from
0x0000 onward (the spec's decision D2, entry 2). -/
def Obligations.OperandFetchWrapsAtTheTop : Prop :=
  ∀ (s : State) (hi lo : Byte), s.running → s.pc = 0xffff#16 →
    s.readProgram 0xffff#16 = 0xf0#8 → s.readProgram 0x0000#16 = hi → s.readProgram 0x0001#16 = lo →
    ∃ t, step s = .next t ∧ t = { s with pc := hi ++ lo, loadOpen := t.loadOpen }

/-! ## Encoding -/

/-- R78: the source's encoded programs read as instructions. -/
def Obligations.SourceProgramsDecode : Prop :=
  decode [0x10#8, 0x05#8] = .instr (.ldai 5#8) [] ∧ decode [0x11#8, 0x03#8] = .instr (.ldbi 3#8) [] ∧
  decode [0x40#8] = .instr .add [] ∧ decode [0xff#8] = .instr .hlt [] ∧
  decode [0x10#8, 0xff#8] = .instr (.ldai 255#8) [] ∧ decode [0x11#8, 0x02#8] = .instr (.ldbi 2#8) []

/-- 30_encoding.md section 3: words of the other families, written out from the opcode map. -/
def Obligations.MapWordsDecode : Prop :=
  decode [0x00#8] = .instr .nop [] ∧ decode [0x20#8, 0x10#8] = .instr (.stap 0x10#8) [] ∧
  decode [0x2f#8, 0x05#8] = .instr (.ldpp 0x05#8) [] ∧ decode [0x2d#8] = .instr .pga [] ∧
  decode [0x30#8, 0x12#8, 0x34#8] = .instr (.ldad 0x1234#16) [] ∧ decode [0x32#8] = .instr .ldbx [] ∧
  decode [0xf3#8, 0x20#8, 0x00#8] = .instr (.jc 0x2000#16) [] ∧
  decode [0xf7#8, 0xaa#8, 0xbb#8] = .instr (.jzb 0xaa#8 0xbb#8) []

/-- 30_encoding.md sections 1 to 3: decoding and encoding agree both ways, for every instruction with every
operand: the decoder reads `i` and leaves `rest` exactly on the encoding of `i` followed by `rest`. -/
def Obligations.DecodeReadsExactlyTheEncoding : Prop :=
  ∀ (bytes : List Byte) (i : Instr) (rest : List Byte),
    decode bytes = .instr i rest ↔ bytes = encode i ++ rest

/-- R73: the illegal opcode bytes are these ranges, 227 of the 256, and executing one raises
UnimplementedOpcode, never skipping it. -/
def Obligations.IllegalOpcodeSpaceFaults : Prop :=
  (∀ (op : Byte) (rest : List Byte),
    decode (op :: rest) = .unimplementedOpcode op ↔
      ((0x03#8 ≤ op ∧ op ≤ 0x0f#8) ∨ (0x13#8 ≤ op ∧ op ≤ 0x1f#8) ∨ (0x26#8 ≤ op ∧ op ≤ 0x2c#8) ∨
       (0x33#8 ≤ op ∧ op ≤ 0x3f#8) ∨ (0x42#8 ≤ op ∧ op ≤ 0xef#8) ∨ (0xf8#8 ≤ op ∧ op ≤ 0xfe#8))) ∧
  ((List.range 256).filter fun n => !opcodes.contains (BitVec.ofNat 8 n)).length = 227 ∧
  ∀ s : State, s.running → s.readProgram s.pc ∉ opcodes →
    ∃ t r, step s = .next t ∧ t.faulted = some r ∧ r.cause = FaultCause.unimplementedOpcode ∧ t.pc = s.pc

/-- 30_encoding.md section 1: the opcode byte alone decides the length and the format, whatever the
operand bytes. -/
def Obligations.OpcodeAloneDecidesTheLength : Prop :=
  ∀ (op : Byte) (bs cs : List Byte) (i j : Instr) (r q : List Byte),
    decode (op :: bs) = .instr i r → decode (op :: cs) = .instr j q →
    i.format = j.format ∧ i.length = j.length ∧ (op :: bs).length = i.length + r.length

/-- 30_encoding.md section 5: the assembler's words. A number assembles high byte first; the operand of a
format X instruction fills the two ignored bytes, and left out it is 0x00 0x00. The syntax is the spec's
decision D11 (entry 17). -/
def Obligations.AssemblerWritesTheEncoding : Prop :=
  (∀ n, n < 65536 →
    assemble [.instr .jmp (some (.number n))] = some (encode (.jmp (BitVec.ofNat 16 n))) ∧
    assemble [.instr .jca (some (.number n))] =
      some [0xf4#8, highByte (BitVec.ofNat 16 n), lowByte (BitVec.ofNat 16 n)]) ∧
  (∀ n, n < 256 → assemble [.instr .ldai (some (.number n))] = some [0x10#8, BitVec.ofNat 8 n]) ∧
  assemble [.instr .jca none] = some [0xf4#8, 0x00#8, 0x00#8] ∧
  assemble [.instr .jcab none] = some [0xf5#8, 0x00#8, 0x00#8] ∧
  assemble [.instr .jzb none] = some [0xf7#8, 0x00#8, 0x00#8]

/-! ## Invariants -/

/-- The invariant holds after reset (10_state.md section 8). -/
def Obligations.ResetMeetsTheInvariant : Prop := State.reset.Inv

/-- Every step keeps the invariant: F is 0x00 or 0x01 (10_state.md section 4), both memories stay in
canonical form (the model's own), halted and faulted are never both set (40_execution_cycle.md section 3),
a stopped CORE takes no load (entry 8), and the fault record names the illegal opcode byte at PC
(60_exceptions.md section 1; the record is D3, entry 3). -/
def Obligations.EveryStepKeepsTheInvariant : Prop :=
  ∀ s t : State, s.Inv → step s = .next t → t.Inv

/-- The invariant holds after every port transaction that answers a state: a load, a startup and a reset
(70_reset_and_hazards.md section 1). -/
def Obligations.PortsKeepTheInvariant : Prop :=
  ∀ (s t : State) (image : List Byte),
    (s.Inv → load image s = .next t → t.Inv) ∧
    (boot (some image) = .next t → t.Inv) ∧
    (resetPort s = .next t → t.Inv)

/-- Memories in canonical form that read alike are the same data (the model's own form, entry 20). -/
def Obligations.CanonicalMemoriesThatReadAlikeAreEqual : Prop :=
  ∀ m n : Memory, m.wf = true → n.wf = true → (∀ a, a < 65536 → m.read a = n.read a) → m = n

/-! ## What the machine as a whole can and cannot do -/

/-- R42 (20_memory.md section 1): program memory is immutable during execution: no instruction and no run of
steps changes it. That the load port answers only before the first step is the spec's decision D18; that one
bit of state, `loadOpen`, tells it is the model's inference (entry 8, DEDUCED). -/
def Obligations.ProgramMemoryIsImmutable : Prop :=
  (∀ (i : Instr) (s t : State), exec i s = .next t → t.pm = s.pm) ∧
  (∀ (n : Nat) (s t : State), run n s = .next t → t.pm = s.pm) ∧
  ∀ (image : List Byte) (s t : State), load image s = .next t → s.loadOpen = true

/-- 10_state.md section 7 (the access matrix), the columns of writes: a piece of state is changed by its
writers alone. Every byte of data memory but the one a store writes reads as before, every byte of
program memory reads as before, and no instruction writes the fault record. -/
def Obligations.OnlyWritersChangeTheirState : Prop :=
  ∀ (i : Instr) (s t : State), exec i s = .next t →
    (i.writesA = false → t.a = s.a) ∧ (i.writesB = false → t.b = s.b) ∧ (i.writesP = false → t.p = s.p) ∧
    (i.writesF = false → t.f = s.f) ∧ (∀ k, 1 ≤ k → t.f.getLsbD k = s.f.getLsbD k) ∧
    (i ≠ .hlt → t.halted = s.halted) ∧ t.faulted = s.faulted ∧ t.loadOpen = s.loadOpen ∧
    (∀ addr, t.readProgram addr = s.readProgram addr) ∧
    (i.isStore = false → ∀ addr, t.memRead addr = s.memRead addr) ∧
    (∀ off, i = .stap off ∨ i = .stbp off →
      ∀ addr, addr ≠ s.pagedAddr off → t.memRead addr = s.memRead addr) ∧
    (i.isJump = false → t.pc = s.pc + BitVec.ofNat 16 i.length)

/-- 10_state.md section 7 (the access matrix), the columns of reads: a register an instruction does not
read has no influence on anything else the instruction leaves. Replacing its value changes no other
field of the result, and not the register itself where the instruction writes it. -/
def Obligations.OnlyReadersDependOnARegister : Prop :=
  ∀ (i : Instr) (s t : State) (x : Byte), exec i s = .next t →
    (i.readsA = false → ∃ u, exec i { s with a := x } = .next u ∧
      t = { u with a := t.a } ∧ u.a = if i.writesA then t.a else x) ∧
    (i.readsB = false → ∃ u, exec i { s with b := x } = .next u ∧
      t = { u with b := t.b } ∧ u.b = if i.writesB then t.b else x) ∧
    (i.readsP = false → ∃ u, exec i { s with p := x } = .next u ∧
      t = { u with p := t.p } ∧ u.p = if i.writesP then t.p else x) ∧
    (i.readsF = false → ∃ u, exec i { s with f := x } = .next u ∧
      t = { u with f := t.f } ∧ u.f[0] = if i.writesF then t.f[0] else x[0])

/-- 40_execution_cycle.md section 2, 41_output_nop.md, 45_arithmetic.md: the events an instruction emits are
exactly these, at most one. That the overflow notice is emitted every time and carries no payload is the
spec's choice (C2, D8, D19, entry 9). -/
def Obligations.EmittedEventsAreExact : Prop :=
  ∀ (i : Instr) (s t : State), exec i s = .next t →
    t.diag = s.diag ++ i.expectedEvents s ∧ (i.expectedEvents s).length ≤ 1

/-- 40_execution_cycle.md section 2: a step emits at most one event, events are only ever appended, and no
step reads the stream: with another stream before it, the step does the same and appends the same. -/
def Obligations.DiagStreamIsWriteOnly : Prop :=
  ∀ (s t : State) (d : List DiagEvent), step s = .next t →
    ∃ es, es.length ≤ 1 ∧ t.diag = s.diag ++ es ∧
      step { s with diag := d } = .next { t with diag := d ++ es }

/-- 10_state.md section 5: over a step, P changes only by LDPI, PGA, PGB or LDPP, halted only by HLT, and
the fault record only by an illegal opcode byte. -/
def Obligations.ControlStateChangesHaveTheirCause : Prop :=
  ∀ s t : State, step s = .next t →
    (t.p ≠ s.p → ∃ i rest, decode s.fetchWindow = .instr i rest ∧ i.writesP = true) ∧
    (t.halted ≠ s.halted → ∃ rest, decode s.fetchWindow = .instr .hlt rest ∧ t.halted = true) ∧
    (t.faulted ≠ s.faulted → s.readProgram s.pc ∉ opcodes ∧ s.faulted = none)

/-- 20_memory.md section 1: over a step, a data byte changes only where STAP or STBP stores it, at the
paged address, and it becomes the stored accumulator (in a data memory of canonical form). -/
def Obligations.DataBytesChangeOnlyByPagedStores : Prop :=
  ∀ (s t : State) (addr : Addr), s.dm.wf = true → step s = .next t → t.memRead addr ≠ s.memRead addr →
    ∃ off rest, addr = s.pagedAddr off ∧
      ((decode s.fetchWindow = .instr (.stap off) rest ∧ t.memRead addr = s.a) ∨
       (decode s.fetchWindow = .instr (.stbp off) rest ∧ t.memRead addr = s.b))

/-- 20_memory.md section 2 and 70_reset_and_hazards.md section 3: the byte STAP stores is read back at once
by the paged, the direct and the register-indirect loads of the same address, and by LDPP. -/
def Obligations.StoredByteIsReadBackInEveryMode : Prop :=
  ∀ (s : State) (off : Byte), s.dm.wf = true →
    ∃ t, exec (.stap off) s = .next t ∧
      (∃ u, exec (.ldap off) t = .next u ∧ u.a = s.a) ∧
      (∃ u, exec (.ldbp off) t = .next u ∧ u.b = s.a) ∧
      (∃ u, exec (.ldpp off) t = .next u ∧ u.p = s.a) ∧
      (∃ u, exec (.ldad (s.p ++ off)) t = .next u ∧ u.a = s.a) ∧
      (∃ u, exec .ldax { t with a := s.p, b := off } = .next u ∧ u.a = s.a) ∧
      (∃ u, exec .ldbx { t with a := s.p, b := off } = .next u ∧ u.b = s.a)

/-! ## Memory -/

/-- 20_memory.md section 2: the paged address is `(P << 8) | off`, it stays in page P, and the register pair
and the zero extension are the numbers the notation says (00_scope.md section 6). -/
def Obligations.PagedAddressStaysInItsPage : Prop :=
  ∀ (s : State) (off : Byte),
    s.pagedAddr off = (s.p.setWidth 16 <<< 8) ||| off.setWidth 16 ∧
    (s.pagedAddr off).toNat = 256 * s.p.toNat + off.toNat ∧ (s.pagedAddr off).toNat / 256 = s.p.toNat ∧
    s.pairAB.toNat = 256 * s.a.toNat + s.b.toNat ∧ (zext16 off).toNat = off.toNat

/-- R44 (and R43 for the read): a data write sets that byte for any address and value, changes no other
byte and nothing else, and is seen by the display's next read exactly when it lies in the framebuffer
region. Data memory is in the model's canonical form. -/
def Obligations.DataWriteSetsOneByte : Prop :=
  ∀ (s : State) (addr : Addr) (v : Byte), s.dm.wf = true →
    s.memWrite addr v = { s with dm := (s.memWrite addr v).dm } ∧
    (s.memWrite addr v).memRead addr = v ∧
    (∀ other, other ≠ addr → (s.memWrite addr v).memRead other = s.memRead other) ∧
    (0x8000#16 ≤ addr → fbRead addr (s.memWrite addr v) = .next v) ∧
    (addr < 0x8000#16 → ∀ a v', fbRead a s = .next v' → fbRead a (s.memWrite addr v) = .next v')

/-- 20_memory.md section 4: `fb_read` gives the data byte in the framebuffer region; its refusal below
0x8000 is the spec's decision D1 (entry 15). -/
def Obligations.FramebufferReadCoversTheUpperHalf : Prop :=
  ∀ (s : State) (addr : Addr),
    (0x8000 ≤ addr.toNat → fbRead addr s = .next (s.memRead addr)) ∧
    (addr.toNat < 0x8000 → fbRead addr s = .refused .framebufferReadBelowBase)

/-- 20_memory.md section 4: pixels lie in row-major order from 0x8000 to 0xFE77, one byte each, and no
other data address holds one. Width and height are the spec's decision D9 (entry 10). -/
def Obligations.PixelsAreLaidOutRowMajor : Prop :=
  (∀ (x : Fin Config.displayWidth) (y : Fin Config.displayHeight),
    (pixelAddr x y).toNat = 0x8000 + 228 * y.val + x.val ∧ pixelAt (pixelAddr x y) = some (x.val, y.val)) ∧
  (∀ addr : Addr, pixelAt addr = none ↔ addr.toNat < 0x8000 ∨ 0xfe77 < addr.toNat)

/-- 20_memory.md section 4: a framebuffer byte is three fields, red at the top; 0b11100000 stored at 0x8000
shows (255, 0, 0) at pixel (0, 0). The other table entries are free (D10, entry 11). -/
def Obligations.FramebufferByteShowsItsColour : Prop :=
  (∀ v : Byte, v.toNat = 32 * (pixelFields v).red.toNat + 4 * (pixelFields v).green.toNat +
    (pixelFields v).blue.toNat) ∧
  ∀ s : State, s.dm.wf = true → s.p = 0x80#8 → s.a = 0b11100000#8 →
    ∃ t, exec (.stap 0x00#8) s = .next t ∧
      ∀ (x : Fin Config.displayWidth) (y : Fin Config.displayHeight), x.val = 0 → y.val = 0 →
        t.pixelColour x y = (255#8, 0#8, 0#8)

/-! ## Ports -/

/-- 70_reset_and_hazards.md section 1: a load writes image byte k to program address k and changes nothing
else; too long an image is refused (D6, entry 6), and so is any load once the port is closed (D18,
entry 8). The rules describe one load after reset, where the bytes after the image are 0x00: that after a
second load before the first step they are those the first load left is the model's choice (entry 21,
DESIGN CHOICE, unsafe). -/
def Obligations.LoadPlacesTheImage : Prop :=
  ∀ (s : State) (image : List Byte), s.pm.wf = true →
    (s.loadOpen = true → image.length ≤ 65536 →
      ∃ t, load image s = .next t ∧ t = { s with pm := t.pm } ∧
        ∀ k, k < 65536 → t.readProgram (BitVec.ofNat 16 k) = image.getD k (s.readProgram (BitVec.ofNat 16 k))) ∧
    (s.loadOpen = true → 65536 < image.length → load image s = .refused .imageTooLong) ∧
    (s.loadOpen = false → load image s = .refused .loadAfterFirstStep)

/-- 70_reset_and_hazards.md sections 1 and 2: startup with a readable image that fits gives a running CORE
at PC 0 whose program memory is the image and zeros after it (D5, entry 5); an unreadable image never
starts. -/
def Obligations.StartupGivesARunningCoreAtZero : Prop :=
  (∀ image : List Byte, image.length ≤ 65536 →
    ∃ s, boot (some image) = .next s ∧ s.running ∧ s.pc = 0x0000#16 ∧ s = { State.reset with pm := s.pm } ∧
      ∀ k, k < 65536 → s.readProgram (BitVec.ofNat 16 k) = image.getD k 0x00#8) ∧
  boot none = .fault .imageUnreadable

/-- 70_reset_and_hazards.md section 1: after a step of a running CORE the load port refuses every image (the
spec's decision D18; the bit that remembers it is the model's inference, entry 8). -/
def Obligations.NoLoadAfterTheFirstStep : Prop :=
  ∀ (s t : State) (image : List Byte), s.running → step s = .next t →
    load image t = .refused .loadAfterFirstStep

/-- 60_exceptions.md section 1: the fault port's cause code is 0 for no fault, and 1 with the opcode byte
and the instruction address after the step of an illegal opcode byte (the code is the spec's decision
D17, entry 15). -/
def Obligations.FaultPortShowsTheRecord : Prop :=
  ∀ s : State,
    (s.faulted = none → faultPort s = (0, none)) ∧
    (s.running → s.readProgram s.pc ∉ opcodes →
      ∃ t, step s = .next t ∧ faultPort t = (1, some (s.readProgram s.pc, s.pc)))
end

