-- ==== Sys2Proof/Laws/Memory.lean ====
section
/-! SUPPORT. The laws of a memory: the canonical form is kept by every write, a byte written is read
back, and every other byte is left alone (spec 20_memory.md R43, R44). -/

namespace Sys2Proof.Machine

@[simp] theorem Memory.read_nil (a : Nat) : Memory.read [] a = 0x00#8 := rfl

theorem Memory.read_cons (k : Nat) (v : Byte) (m : Memory) (a : Nat) :
    Memory.read ((k, v) :: m) a = if k = a then v else Memory.read m a := rfl

theorem Memory.wfFrom_cons (lo k : Nat) (v : Byte) (m : Memory) :
    Memory.wfFrom lo ((k, v) :: m) = true ↔
      lo ≤ k ∧ k < 65536 ∧ v ≠ 0x00#8 ∧ Memory.wfFrom (k + 1) m = true := by
  simp only [Memory.wfFrom, Bool.and_eq_true, decide_eq_true_eq, and_assoc]
  rfl

theorem Memory.wfFrom_mono {lo lo' : Nat} {m : Memory} (hle : lo' ≤ lo)
    (h : Memory.wfFrom lo m = true) : Memory.wfFrom lo' m = true := by
  cases m with
  | nil => rfl
  | cons c m =>
    rw [Memory.wfFrom_cons] at h ⊢
    exact ⟨hle.trans h.1, h.2⟩

/-- Below the first address a memory can list, every byte reads as 0x00. -/
theorem Memory.read_below {lo a : Nat} {m : Memory} (h : Memory.wfFrom lo m = true) (ha : a < lo) :
    m.read a = 0x00#8 := by
  induction m generalizing lo with
  | nil => rfl
  | cons c m ih =>
    obtain ⟨k, v⟩ := c
    rw [Memory.wfFrom_cons] at h
    rw [Memory.read_cons, if_neg (by omega)]
    exact ih h.2.2.2 (by omega)

/-- A write leaves every other address as it was. -/
theorem Memory.read_write_of_ne (m : Memory) {a a' : Nat} (v : Byte) (hne : a' ≠ a) :
    (m.write a v).read a' = m.read a' := by
  induction m with
  | nil =>
    unfold Memory.write
    split
    · rfl
    · rw [Memory.read_cons, if_neg hne.symm]
  | cons c m ih =>
    obtain ⟨k, x⟩ := c
    unfold Memory.write
    split
    · split
      · rfl
      · rw [Memory.read_cons, if_neg hne.symm]
    · split
      · subst a
        split <;> simp [Memory.read_cons, hne.symm]
      · simp only [Memory.read_cons, ih]

/-- A byte written to a memory in canonical form is read back. -/
theorem Memory.read_write_same {m : Memory} (h : m.wf = true) (a : Nat) (v : Byte) :
    (m.write a v).read a = v := by
  unfold Memory.wf at h
  revert h
  generalize 0 = lo
  intro h
  induction m generalizing lo with
  | nil =>
    unfold Memory.write
    split
    · simp [*]
    · simp [Memory.read_cons]
  | cons c m ih =>
    obtain ⟨k, x⟩ := c
    have hc := (Memory.wfFrom_cons lo k x m).mp h
    unfold Memory.write
    split
    · split
      · rename_i hlt hv
        rw [Memory.read_cons, if_neg (by omega), hv]
        exact Memory.read_below hc.2.2.2 (by omega)
      · simp [Memory.read_cons]
    · split
      · split
        · rename_i hk hv
          rw [hv]
          exact Memory.read_below hc.2.2.2 (by omega)
        · simp [Memory.read_cons]
      · rename_i hlt hne
        rw [Memory.read_cons, if_neg (fun e => hne e.symm)]
        exact ih _ hc.2.2.2

theorem Memory.wfFrom_write {lo a : Nat} {m : Memory} (v : Byte) (h : Memory.wfFrom lo m = true)
    (hlo : lo ≤ a) (ha : a < 65536) : Memory.wfFrom lo (m.write a v) = true := by
  induction m generalizing lo with
  | nil =>
    unfold Memory.write
    split
    · rfl
    · exact (Memory.wfFrom_cons _ _ _ _).mpr ⟨hlo, ha, ‹_›, rfl⟩
  | cons c m ih =>
    obtain ⟨k, x⟩ := c
    have hc := (Memory.wfFrom_cons lo k x m).mp h
    unfold Memory.write
    split
    · split
      · exact h
      · refine (Memory.wfFrom_cons _ _ _ _).mpr ⟨hlo, ha, ‹_›, ?_⟩
        exact (Memory.wfFrom_cons _ _ _ _).mpr ⟨by omega, hc.2⟩
    · split
      · subst a
        split
        · exact Memory.wfFrom_mono (by omega) hc.2.2.2
        · exact (Memory.wfFrom_cons _ _ _ _).mpr ⟨hc.1, hc.2.1, ‹_›, hc.2.2.2⟩
      · refine (Memory.wfFrom_cons _ _ _ _).mpr ⟨hc.1, hc.2.1, hc.2.2.1, ?_⟩
        exact ih hc.2.2.2 (by omega)

/-- Every write below 65536 keeps the canonical form. -/
theorem Memory.wf_write {m : Memory} {a : Nat} (v : Byte) (h : m.wf = true) (ha : a < 65536) :
    (m.write a v).wf = true :=
  Memory.wfFrom_write v h (Nat.zero_le a) ha

/-- Every run of byte writes keeps the canonical form. -/
theorem Memory.wf_writeBytes {m : Memory} (h : m.wf = true) (a : Addr) (bs : List Byte) :
    (m.writeBytes a bs).wf = true := by
  induction bs generalizing m a with
  | nil => exact h
  | cons v bs ih => exact ih (Memory.wf_write v h a.isLt) _

/-- What a run of byte writes that does not pass the top leaves at every address: byte `k` of the run at
address `a + k`, and the old byte elsewhere. -/
theorem Memory.read_writeBytes {m : Memory} (h : m.wf = true) (bs : List Byte) (a : Addr)
    (hfit : a.toNat + bs.length ≤ 65536) (k : Nat) :
    (m.writeBytes a bs).read k = if a.toNat ≤ k then bs.getD (k - a.toNat) (m.read k) else m.read k := by
  induction bs generalizing m a with
  | nil => simp [Memory.writeBytes]
  | cons v bs ih =>
    rw [List.length_cons] at hfit
    have hrest : ((m.write a.toNat v).writeBytes (a + 1) bs).read k =
        if a.toNat + 1 ≤ k then bs.getD (k - (a.toNat + 1)) ((m.write a.toNat v).read k)
        else (m.write a.toNat v).read k := by
      by_cases hbs : bs = []
      · subst hbs
        simp [Memory.writeBytes]
      · have hpos : 0 < bs.length := List.length_pos_iff.2 hbs
        have hnext : (a + 1).toNat = a.toNat + 1 := by
          rw [BitVec.toNat_add]
          show (a.toNat + 1) % 65536 = _
          omega
        rw [ih (Memory.wf_write v h a.isLt) _ (by omega), hnext]
    rw [Memory.writeBytes, hrest]
    by_cases hk : k = a.toNat
    · subst hk
      rw [if_neg (by omega), Memory.read_write_same h]
      simp
    · rw [Memory.read_write_of_ne _ _ hk]
      by_cases hle : a.toNat + 1 ≤ k
      · rw [if_pos hle, if_pos (by omega), show k - a.toNat = k - (a.toNat + 1) + 1 by omega]
        simp
      · rw [if_neg hle, if_neg (by omega)]

@[simp] theorem Memory.wf_nil : Memory.wf [] = true := rfl

@[simp] theorem State.reset_pm_wf : State.reset.pm.wf = true := rfl

@[simp] theorem State.reset_dm_wf : State.reset.dm.wf = true := rfl

/-- A data write changes the byte at its address alone. -/
theorem State.memRead_memWrite_of_ne (s : State) {addr addr' : Addr} (v : Byte) (hne : addr' ≠ addr) :
    (s.memWrite addr v).memRead addr' = s.memRead addr' :=
  Memory.read_write_of_ne s.dm v fun h => hne (BitVec.eq_of_toNat_eq h)

end Sys2Proof.Machine
end

