-- ==== Sys2Proof/Laws/State.lean ====
section
/-! SUPPORT. One lemma per field of `State` and per update, each true by `rfl`, so that no proof
unfolds a record update. -/

namespace Sys2Proof.Machine

variable (s : State)

@[simp] theorem State.setA_a (v : Byte) : (s.setA v).a = v := rfl
@[simp] theorem State.setA_b (v : Byte) : (s.setA v).b = s.b := rfl
@[simp] theorem State.setA_f (v : Byte) : (s.setA v).f = s.f := rfl
@[simp] theorem State.setA_p (v : Byte) : (s.setA v).p = s.p := rfl
@[simp] theorem State.setA_pc (v : Byte) : (s.setA v).pc = s.pc := rfl
@[simp] theorem State.setA_halted (v : Byte) : (s.setA v).halted = s.halted := rfl
@[simp] theorem State.setA_faulted (v : Byte) : (s.setA v).faulted = s.faulted := rfl
@[simp] theorem State.setA_pm (v : Byte) : (s.setA v).pm = s.pm := rfl
@[simp] theorem State.setA_dm (v : Byte) : (s.setA v).dm = s.dm := rfl
@[simp] theorem State.setA_diag (v : Byte) : (s.setA v).diag = s.diag := rfl
@[simp] theorem State.setA_loadOpen (v : Byte) : (s.setA v).loadOpen = s.loadOpen := rfl

@[simp] theorem State.setB_a (v : Byte) : (s.setB v).a = s.a := rfl
@[simp] theorem State.setB_b (v : Byte) : (s.setB v).b = v := rfl
@[simp] theorem State.setB_f (v : Byte) : (s.setB v).f = s.f := rfl
@[simp] theorem State.setB_p (v : Byte) : (s.setB v).p = s.p := rfl
@[simp] theorem State.setB_pc (v : Byte) : (s.setB v).pc = s.pc := rfl
@[simp] theorem State.setB_halted (v : Byte) : (s.setB v).halted = s.halted := rfl
@[simp] theorem State.setB_faulted (v : Byte) : (s.setB v).faulted = s.faulted := rfl
@[simp] theorem State.setB_pm (v : Byte) : (s.setB v).pm = s.pm := rfl
@[simp] theorem State.setB_dm (v : Byte) : (s.setB v).dm = s.dm := rfl
@[simp] theorem State.setB_diag (v : Byte) : (s.setB v).diag = s.diag := rfl
@[simp] theorem State.setB_loadOpen (v : Byte) : (s.setB v).loadOpen = s.loadOpen := rfl

@[simp] theorem State.setF_a (v : Byte) : (s.setF v).a = s.a := rfl
@[simp] theorem State.setF_b (v : Byte) : (s.setF v).b = s.b := rfl
@[simp] theorem State.setF_f (v : Byte) : (s.setF v).f = v := rfl
@[simp] theorem State.setF_p (v : Byte) : (s.setF v).p = s.p := rfl
@[simp] theorem State.setF_pc (v : Byte) : (s.setF v).pc = s.pc := rfl
@[simp] theorem State.setF_halted (v : Byte) : (s.setF v).halted = s.halted := rfl
@[simp] theorem State.setF_faulted (v : Byte) : (s.setF v).faulted = s.faulted := rfl
@[simp] theorem State.setF_pm (v : Byte) : (s.setF v).pm = s.pm := rfl
@[simp] theorem State.setF_dm (v : Byte) : (s.setF v).dm = s.dm := rfl
@[simp] theorem State.setF_diag (v : Byte) : (s.setF v).diag = s.diag := rfl
@[simp] theorem State.setF_loadOpen (v : Byte) : (s.setF v).loadOpen = s.loadOpen := rfl

@[simp] theorem State.setCarry_a (c : Bool) : (s.setCarry c).a = s.a := rfl
@[simp] theorem State.setCarry_b (c : Bool) : (s.setCarry c).b = s.b := rfl
@[simp] theorem State.setCarry_f (c : Bool) : (s.setCarry c).f = withCarry s.f c := rfl
@[simp] theorem State.setCarry_p (c : Bool) : (s.setCarry c).p = s.p := rfl
@[simp] theorem State.setCarry_pc (c : Bool) : (s.setCarry c).pc = s.pc := rfl
@[simp] theorem State.setCarry_halted (c : Bool) : (s.setCarry c).halted = s.halted := rfl
@[simp] theorem State.setCarry_faulted (c : Bool) : (s.setCarry c).faulted = s.faulted := rfl
@[simp] theorem State.setCarry_pm (c : Bool) : (s.setCarry c).pm = s.pm := rfl
@[simp] theorem State.setCarry_dm (c : Bool) : (s.setCarry c).dm = s.dm := rfl
@[simp] theorem State.setCarry_diag (c : Bool) : (s.setCarry c).diag = s.diag := rfl
@[simp] theorem State.setCarry_loadOpen (c : Bool) : (s.setCarry c).loadOpen = s.loadOpen := rfl

@[simp] theorem State.setP_a (v : Byte) : (s.setP v).a = s.a := rfl
@[simp] theorem State.setP_b (v : Byte) : (s.setP v).b = s.b := rfl
@[simp] theorem State.setP_f (v : Byte) : (s.setP v).f = s.f := rfl
@[simp] theorem State.setP_p (v : Byte) : (s.setP v).p = v := rfl
@[simp] theorem State.setP_pc (v : Byte) : (s.setP v).pc = s.pc := rfl
@[simp] theorem State.setP_halted (v : Byte) : (s.setP v).halted = s.halted := rfl
@[simp] theorem State.setP_faulted (v : Byte) : (s.setP v).faulted = s.faulted := rfl
@[simp] theorem State.setP_pm (v : Byte) : (s.setP v).pm = s.pm := rfl
@[simp] theorem State.setP_dm (v : Byte) : (s.setP v).dm = s.dm := rfl
@[simp] theorem State.setP_diag (v : Byte) : (s.setP v).diag = s.diag := rfl
@[simp] theorem State.setP_loadOpen (v : Byte) : (s.setP v).loadOpen = s.loadOpen := rfl

@[simp] theorem State.jump_a (target : Addr) : (s.jump target).a = s.a := rfl
@[simp] theorem State.jump_b (target : Addr) : (s.jump target).b = s.b := rfl
@[simp] theorem State.jump_f (target : Addr) : (s.jump target).f = s.f := rfl
@[simp] theorem State.jump_p (target : Addr) : (s.jump target).p = s.p := rfl
@[simp] theorem State.jump_pc (target : Addr) : (s.jump target).pc = target := rfl
@[simp] theorem State.jump_halted (target : Addr) : (s.jump target).halted = s.halted := rfl
@[simp] theorem State.jump_faulted (target : Addr) : (s.jump target).faulted = s.faulted := rfl
@[simp] theorem State.jump_pm (target : Addr) : (s.jump target).pm = s.pm := rfl
@[simp] theorem State.jump_dm (target : Addr) : (s.jump target).dm = s.dm := rfl
@[simp] theorem State.jump_diag (target : Addr) : (s.jump target).diag = s.diag := rfl
@[simp] theorem State.jump_loadOpen (target : Addr) : (s.jump target).loadOpen = s.loadOpen := rfl

@[simp] theorem State.advance_a (n : Nat) : (s.advance n).a = s.a := rfl
@[simp] theorem State.advance_b (n : Nat) : (s.advance n).b = s.b := rfl
@[simp] theorem State.advance_f (n : Nat) : (s.advance n).f = s.f := rfl
@[simp] theorem State.advance_p (n : Nat) : (s.advance n).p = s.p := rfl
@[simp] theorem State.advance_pc (n : Nat) : (s.advance n).pc = s.pc + BitVec.ofNat 16 n := rfl
@[simp] theorem State.advance_halted (n : Nat) : (s.advance n).halted = s.halted := rfl
@[simp] theorem State.advance_faulted (n : Nat) : (s.advance n).faulted = s.faulted := rfl
@[simp] theorem State.advance_pm (n : Nat) : (s.advance n).pm = s.pm := rfl
@[simp] theorem State.advance_dm (n : Nat) : (s.advance n).dm = s.dm := rfl
@[simp] theorem State.advance_diag (n : Nat) : (s.advance n).diag = s.diag := rfl
@[simp] theorem State.advance_loadOpen (n : Nat) : (s.advance n).loadOpen = s.loadOpen := rfl

@[simp] theorem State.halt_a : (s.halt).a = s.a := rfl
@[simp] theorem State.halt_b : (s.halt).b = s.b := rfl
@[simp] theorem State.halt_f : (s.halt).f = s.f := rfl
@[simp] theorem State.halt_p : (s.halt).p = s.p := rfl
@[simp] theorem State.halt_pc : (s.halt).pc = s.pc := rfl
@[simp] theorem State.halt_halted : (s.halt).halted = true := rfl
@[simp] theorem State.halt_faulted : (s.halt).faulted = s.faulted := rfl
@[simp] theorem State.halt_pm : (s.halt).pm = s.pm := rfl
@[simp] theorem State.halt_dm : (s.halt).dm = s.dm := rfl
@[simp] theorem State.halt_diag : (s.halt).diag = s.diag := rfl
@[simp] theorem State.halt_loadOpen : (s.halt).loadOpen = s.loadOpen := rfl

@[simp] theorem State.emit_a (e : DiagEvent) : (s.emit e).a = s.a := rfl
@[simp] theorem State.emit_b (e : DiagEvent) : (s.emit e).b = s.b := rfl
@[simp] theorem State.emit_f (e : DiagEvent) : (s.emit e).f = s.f := rfl
@[simp] theorem State.emit_p (e : DiagEvent) : (s.emit e).p = s.p := rfl
@[simp] theorem State.emit_pc (e : DiagEvent) : (s.emit e).pc = s.pc := rfl
@[simp] theorem State.emit_halted (e : DiagEvent) : (s.emit e).halted = s.halted := rfl
@[simp] theorem State.emit_faulted (e : DiagEvent) : (s.emit e).faulted = s.faulted := rfl
@[simp] theorem State.emit_pm (e : DiagEvent) : (s.emit e).pm = s.pm := rfl
@[simp] theorem State.emit_dm (e : DiagEvent) : (s.emit e).dm = s.dm := rfl
@[simp] theorem State.emit_diag (e : DiagEvent) : (s.emit e).diag = s.diag ++ [e] := rfl
@[simp] theorem State.emit_loadOpen (e : DiagEvent) : (s.emit e).loadOpen = s.loadOpen := rfl

@[simp] theorem State.memWrite_a (addr : Addr) (v : Byte) : (s.memWrite addr v).a = s.a := rfl
@[simp] theorem State.memWrite_b (addr : Addr) (v : Byte) : (s.memWrite addr v).b = s.b := rfl
@[simp] theorem State.memWrite_f (addr : Addr) (v : Byte) : (s.memWrite addr v).f = s.f := rfl
@[simp] theorem State.memWrite_p (addr : Addr) (v : Byte) : (s.memWrite addr v).p = s.p := rfl
@[simp] theorem State.memWrite_pc (addr : Addr) (v : Byte) : (s.memWrite addr v).pc = s.pc := rfl
@[simp] theorem State.memWrite_halted (addr : Addr) (v : Byte) : (s.memWrite addr v).halted = s.halted := rfl
@[simp] theorem State.memWrite_faulted (addr : Addr) (v : Byte) : (s.memWrite addr v).faulted = s.faulted := rfl
@[simp] theorem State.memWrite_pm (addr : Addr) (v : Byte) : (s.memWrite addr v).pm = s.pm := rfl
@[simp] theorem State.memWrite_dm (addr : Addr) (v : Byte) : (s.memWrite addr v).dm = s.dm.write addr.toNat v := rfl
@[simp] theorem State.memWrite_diag (addr : Addr) (v : Byte) : (s.memWrite addr v).diag = s.diag := rfl
@[simp] theorem State.memWrite_loadOpen (addr : Addr) (v : Byte) : (s.memWrite addr v).loadOpen = s.loadOpen := rfl

@[simp] theorem State.storePaged_a (off v : Byte) : (s.storePaged off v).a = s.a := rfl
@[simp] theorem State.storePaged_b (off v : Byte) : (s.storePaged off v).b = s.b := rfl
@[simp] theorem State.storePaged_f (off v : Byte) : (s.storePaged off v).f = s.f := rfl
@[simp] theorem State.storePaged_p (off v : Byte) : (s.storePaged off v).p = s.p := rfl
@[simp] theorem State.storePaged_pc (off v : Byte) : (s.storePaged off v).pc = s.pc := rfl
@[simp] theorem State.storePaged_halted (off v : Byte) : (s.storePaged off v).halted = s.halted := rfl
@[simp] theorem State.storePaged_faulted (off v : Byte) : (s.storePaged off v).faulted = s.faulted := rfl
@[simp] theorem State.storePaged_pm (off v : Byte) : (s.storePaged off v).pm = s.pm := rfl
@[simp] theorem State.storePaged_dm (off v : Byte) : (s.storePaged off v).dm = s.dm.write (s.pagedAddr off).toNat v := rfl
@[simp] theorem State.storePaged_diag (off v : Byte) : (s.storePaged off v).diag = s.diag := rfl
@[simp] theorem State.storePaged_loadOpen (off v : Byte) : (s.storePaged off v).loadOpen = s.loadOpen := rfl

@[simp] theorem State.closeLoad_a : (s.closeLoad).a = s.a := rfl
@[simp] theorem State.closeLoad_b : (s.closeLoad).b = s.b := rfl
@[simp] theorem State.closeLoad_f : (s.closeLoad).f = s.f := rfl
@[simp] theorem State.closeLoad_p : (s.closeLoad).p = s.p := rfl
@[simp] theorem State.closeLoad_pc : (s.closeLoad).pc = s.pc := rfl
@[simp] theorem State.closeLoad_halted : (s.closeLoad).halted = s.halted := rfl
@[simp] theorem State.closeLoad_faulted : (s.closeLoad).faulted = s.faulted := rfl
@[simp] theorem State.closeLoad_pm : (s.closeLoad).pm = s.pm := rfl
@[simp] theorem State.closeLoad_dm : (s.closeLoad).dm = s.dm := rfl
@[simp] theorem State.closeLoad_diag : (s.closeLoad).diag = s.diag := rfl
@[simp] theorem State.closeLoad_loadOpen : (s.closeLoad).loadOpen = false := rfl

@[simp] theorem State.raiseUnimplementedOpcode_a (op : Byte) : (s.raiseUnimplementedOpcode op).a = s.a := rfl
@[simp] theorem State.raiseUnimplementedOpcode_b (op : Byte) : (s.raiseUnimplementedOpcode op).b = s.b := rfl
@[simp] theorem State.raiseUnimplementedOpcode_f (op : Byte) : (s.raiseUnimplementedOpcode op).f = s.f := rfl
@[simp] theorem State.raiseUnimplementedOpcode_p (op : Byte) : (s.raiseUnimplementedOpcode op).p = s.p := rfl
@[simp] theorem State.raiseUnimplementedOpcode_pc (op : Byte) : (s.raiseUnimplementedOpcode op).pc = s.pc := rfl
@[simp] theorem State.raiseUnimplementedOpcode_halted (op : Byte) : (s.raiseUnimplementedOpcode op).halted = s.halted := rfl
@[simp] theorem State.raiseUnimplementedOpcode_faulted (op : Byte) : (s.raiseUnimplementedOpcode op).faulted = some ⟨FaultCause.unimplementedOpcode, op, s.pc⟩ := rfl
@[simp] theorem State.raiseUnimplementedOpcode_pm (op : Byte) : (s.raiseUnimplementedOpcode op).pm = s.pm := rfl
@[simp] theorem State.raiseUnimplementedOpcode_dm (op : Byte) : (s.raiseUnimplementedOpcode op).dm = s.dm := rfl
@[simp] theorem State.raiseUnimplementedOpcode_diag (op : Byte) : (s.raiseUnimplementedOpcode op).diag = s.diag := rfl
@[simp] theorem State.raiseUnimplementedOpcode_loadOpen (op : Byte) : (s.raiseUnimplementedOpcode op).loadOpen = s.loadOpen := rfl

@[simp] theorem State.placeAtPc_a (bs : List Byte) : (s.placeAtPc bs).a = s.a := rfl
@[simp] theorem State.placeAtPc_b (bs : List Byte) : (s.placeAtPc bs).b = s.b := rfl
@[simp] theorem State.placeAtPc_f (bs : List Byte) : (s.placeAtPc bs).f = s.f := rfl
@[simp] theorem State.placeAtPc_p (bs : List Byte) : (s.placeAtPc bs).p = s.p := rfl
@[simp] theorem State.placeAtPc_pc (bs : List Byte) : (s.placeAtPc bs).pc = s.pc := rfl
@[simp] theorem State.placeAtPc_halted (bs : List Byte) : (s.placeAtPc bs).halted = false := rfl
@[simp] theorem State.placeAtPc_faulted (bs : List Byte) : (s.placeAtPc bs).faulted = none := rfl
@[simp] theorem State.placeAtPc_pm (bs : List Byte) : (s.placeAtPc bs).pm = s.pm.writeBytes s.pc bs := rfl
@[simp] theorem State.placeAtPc_dm (bs : List Byte) : (s.placeAtPc bs).dm = s.dm := rfl
@[simp] theorem State.placeAtPc_diag (bs : List Byte) : (s.placeAtPc bs).diag = s.diag := rfl
@[simp] theorem State.placeAtPc_loadOpen (bs : List Byte) : (s.placeAtPc bs).loadOpen = s.loadOpen := rfl

end Sys2Proof.Machine
end

