-- ==== Sys2Proof/Laws/Ops.lean ====
section
/-! SUPPORT. For each shared operation, what it answers, said once (spec 00_scope.md R9, R11). -/

namespace Sys2Proof

theorem pair_toNat (hi lo : Byte) : (pair hi lo).toNat = 256 * hi.toNat + lo.toNat := by
  have := lo.isLt
  simp only [pair, BitVec.toNat_append, Nat.shiftLeft_eq]
  rw [Nat.or_comm, ← Nat.mul_comm, Nat.or_comm, ← Nat.two_pow_add_eq_or_of_lt lo.isLt]

@[simp] theorem pair_highByte_lowByte (a : Addr) : pair (highByte a) (lowByte a) = a := by
  apply BitVec.eq_of_getLsbD_eq
  intro i hi
  simp only [pair, highByte, lowByte, BitVec.getLsbD_append, BitVec.getLsbD_extractLsb']
  split
  · simp [*]
  · have : i - 8 < 8 := by omega
    have e : 8 + (i - 8) = i := by omega
    simp [this, e]

@[simp] theorem highByte_pair (hi lo : Byte) : highByte (pair hi lo) = hi := by
  apply BitVec.eq_of_getLsbD_eq
  intro i h
  simp only [pair, highByte, BitVec.getLsbD_append, BitVec.getLsbD_extractLsb', h]
  simp

@[simp] theorem lowByte_pair (hi lo : Byte) : lowByte (pair hi lo) = lo := by
  apply BitVec.eq_of_getLsbD_eq
  intro i h
  simp only [pair, lowByte, BitVec.getLsbD_append, BitVec.getLsbD_extractLsb', h]
  simp [h]

namespace Machine

@[simp] theorem zext16_toNat (v : Byte) : (zext16 v).toNat = v.toNat := by
  have := v.isLt
  simp only [zext16, BitVec.toNat_setWidth]
  omega

/-! Reading a memory byte after an update that leaves that memory alone. -/

theorem State.memRead_congr {s t : State} (h : t.dm = s.dm) (addr : Addr) :
    t.memRead addr = s.memRead addr := by
  rw [State.memRead, State.memRead, h]

theorem State.readProgram_congr {s t : State} (h : t.pm = s.pm) (addr : Addr) :
    t.readProgram addr = s.readProgram addr := by
  rw [State.readProgram, State.readProgram, h]

/-! Fetching. -/

/-- The fetch of `n` bytes does nothing but advance PC by `n`. -/
theorem State.fetchBytes_state (n : Nat) (s : State) : (s.fetchBytes n).2 = s.advance n := by
  induction n generalizing s with
  | zero => simp [State.fetchBytes, State.advance]
  | succ n ih =>
    simp only [State.fetchBytes, State.fetchByte, ih, State.advance, State.mk.injEq, true_and, and_true]
    rw [BitVec.add_assoc, ← BitVec.ofNat_add, Nat.add_comm]

/-- The fetch window is the three program bytes at PC, PC + 1 and PC + 2. -/
theorem State.fetchWindow_eq (s : State) :
    s.fetchWindow = [s.readProgram s.pc, s.readProgram (s.pc + 1), s.readProgram (s.pc + 1 + 1)] := rfl

/-- Three bytes are never too few to decode. -/
theorem decode_three_ne_truncated (op x y : Byte) : decode [op, x, y] ≠ .truncated := by
  simp only [decode, decodeI, decodeW, decodeX]
  split <;> exact Decoded.noConfusion

/-! The adder and the carry flag. -/

theorem add8_fst_toNat (x y : Byte) : (add8 x y).1.toNat = (x.toNat + y.toNat) % 256 := by
  simp [add8]

theorem add8_snd (x y : Byte) : (add8 x y).2 = decide (x.toNat + y.toNat > 255) := rfl

theorem State.adcOperand_toNat (s : State) : s.adcOperand.toNat = (s.b.toNat + s.f.toNat) % 2 := by
  simp only [State.adcOperand, Nat.and_one_is_mod, BitVec.toNat_ofNat]
  omega

@[simp] theorem withCarry_carry (f : Byte) (c : Bool) : (withCarry f c)[0] = c := by
  rw [← BitVec.getLsbD_eq_getElem, withCarry, BitVec.getLsbD_append]
  cases c <;> rfl

/-- Bits 7:1 of F are kept. -/
theorem withCarry_getLsbD_succ (f : Byte) (c : Bool) (i : Nat) :
    (withCarry f c).getLsbD (i + 1) = f.getLsbD (i + 1) := by
  simp only [withCarry, BitVec.getLsbD_append, BitVec.getLsbD_extractLsb']
  by_cases h : i < 7
  · simp [h, Nat.add_comm]
  · have h7 : 8 ≤ i + 1 := by omega
    simp [h, BitVec.getLsbD_of_ge f (i + 1) h7]

/-- From a status byte that is 0x00 or 0x01, setting the carry gives 0x00 or 0x01. -/
theorem withCarry_of_legal {f : Byte} (h : f = 0x00#8 ∨ f = 0x01#8) (c : Bool) :
    withCarry f c = if c then 0x01#8 else 0x00#8 := by
  rcases h with rfl | rfl <;> cases c <;> decide

@[simp] theorem State.setCarry_carry (s : State) (c : Bool) : (s.setCarry c).carry = c :=
  withCarry_carry s.f c

/-! What ADD and ADC share, field by field. -/

variable (s : State)

theorem State.addToA_a (y : Byte) : (s.addToA y).a = (add8 s.a y).1 := by
  unfold State.addToA State.emitIf; cases (add8 s.a y).2 <;> rfl

theorem State.addToA_f (y : Byte) : (s.addToA y).f = withCarry s.f (add8 s.a y).2 := by
  unfold State.addToA State.emitIf; cases (add8 s.a y).2 <;> rfl

theorem State.addToA_diag (y : Byte) :
    (s.addToA y).diag = s.diag ++ (if (add8 s.a y).2 then [DiagEvent.addOverflow] else []) := by
  unfold State.addToA State.emitIf; cases (add8 s.a y).2 <;> simp

@[simp] theorem State.addToA_b (y : Byte) : (s.addToA y).b = s.b := by
  unfold State.addToA State.emitIf; cases (add8 s.a y).2 <;> rfl

@[simp] theorem State.addToA_p (y : Byte) : (s.addToA y).p = s.p := by
  unfold State.addToA State.emitIf; cases (add8 s.a y).2 <;> rfl

@[simp] theorem State.addToA_pc (y : Byte) : (s.addToA y).pc = s.pc := by
  unfold State.addToA State.emitIf; cases (add8 s.a y).2 <;> rfl

@[simp] theorem State.addToA_halted (y : Byte) : (s.addToA y).halted = s.halted := by
  unfold State.addToA State.emitIf; cases (add8 s.a y).2 <;> rfl

@[simp] theorem State.addToA_faulted (y : Byte) : (s.addToA y).faulted = s.faulted := by
  unfold State.addToA State.emitIf; cases (add8 s.a y).2 <;> rfl

@[simp] theorem State.addToA_pm (y : Byte) : (s.addToA y).pm = s.pm := by
  unfold State.addToA State.emitIf; cases (add8 s.a y).2 <;> rfl

@[simp] theorem State.addToA_dm (y : Byte) : (s.addToA y).dm = s.dm := by
  unfold State.addToA State.emitIf; cases (add8 s.a y).2 <;> rfl

@[simp] theorem State.addToA_loadOpen (y : Byte) : (s.addToA y).loadOpen = s.loadOpen := by
  unfold State.addToA State.emitIf; cases (add8 s.a y).2 <;> rfl

/-- Everything ADD and ADC share does, at once. -/
theorem State.addToA_eq (y : Byte) :
    s.addToA y = { s with
      a := (add8 s.a y).1
      f := withCarry s.f (add8 s.a y).2
      diag := s.diag ++ if (add8 s.a y).2 then [DiagEvent.addOverflow] else [] } := by
  rw [← State.addToA_a, ← State.addToA_f, ← State.addToA_diag]
  unfold State.addToA State.emitIf
  cases (add8 s.a y).2 <;> rfl

/-! A conditional jump, field by field. -/

theorem State.jumpIf_pc (c : Bool) (target : Addr) :
    (s.jumpIf c target).pc = if c then target else s.pc := by
  cases c <;> rfl

@[simp] theorem State.jumpIf_a (c : Bool) (target : Addr) : (s.jumpIf c target).a = s.a := by
  cases c <;> rfl

@[simp] theorem State.jumpIf_b (c : Bool) (target : Addr) : (s.jumpIf c target).b = s.b := by
  cases c <;> rfl

@[simp] theorem State.jumpIf_f (c : Bool) (target : Addr) : (s.jumpIf c target).f = s.f := by
  cases c <;> rfl

@[simp] theorem State.jumpIf_p (c : Bool) (target : Addr) : (s.jumpIf c target).p = s.p := by
  cases c <;> rfl

@[simp] theorem State.jumpIf_halted (c : Bool) (target : Addr) : (s.jumpIf c target).halted = s.halted := by
  cases c <;> rfl

@[simp] theorem State.jumpIf_faulted (c : Bool) (target : Addr) : (s.jumpIf c target).faulted = s.faulted := by
  cases c <;> rfl

@[simp] theorem State.jumpIf_pm (c : Bool) (target : Addr) : (s.jumpIf c target).pm = s.pm := by
  cases c <;> rfl

@[simp] theorem State.jumpIf_dm (c : Bool) (target : Addr) : (s.jumpIf c target).dm = s.dm := by
  cases c <;> rfl

@[simp] theorem State.jumpIf_diag (c : Bool) (target : Addr) : (s.jumpIf c target).diag = s.diag := by
  cases c <;> rfl

@[simp] theorem State.jumpIf_loadOpen (c : Bool) (target : Addr) : (s.jumpIf c target).loadOpen = s.loadOpen := by
  cases c <;> rfl

/-- Everything a conditional jump does, at once. -/
theorem State.jumpIf_eq (c : Bool) (target : Addr) :
    s.jumpIf c target = { s with pc := if c then target else s.pc } := by
  cases c <;> rfl

/-! The ports. -/

/-- If `load` answers a state, the port was open, the image fits, and program memory alone changed. -/
theorem load_next {image : List Byte} {s t : State} (h : load image s = .next t) :
    s.loadOpen = true ∧ image.length ≤ 65536 ∧
      t = { s with pm := s.pm.writeBytes Config.entryPoint image } := by
  unfold load at h
  split at h
  · split at h
    · rename_i hopen hwf
      injection h with h
      exact ⟨hopen, of_decide_eq_true hwf, h.symm⟩
    · cases h
  · cases h

/-- If `fb_read` answers a byte, the address is of the framebuffer region and the byte is the data
byte there. -/
theorem fbRead_next {addr : Addr} {s : State} {v : Byte} (h : fbRead addr s = .next v) :
    0x8000#16 ≤ addr ∧ v = s.memRead addr := by
  unfold fbRead at h
  split at h
  · rename_i hle
    injection h with h
    exact ⟨hle, h.symm⟩
  · cases h

end Machine

end Sys2Proof
end

