-- ==== Sys2Proof/Laws/PerInstr.lean ====
section
/-! SUPPORT. Statements made per instruction, about the instruction as syntax. -/

/-- The shape of an encoding (spec 30_encoding.md R65 to R72): as many bytes as the format has, the
opcode byte first, and that byte one of the 29. -/
def Sys2Proof.Laws.EncodedShape.Statement (i : Sys2Proof.Instr) : Prop :=
  (Sys2Proof.encode i).length = i.length ∧ (Sys2Proof.encode i).head? = some i.opcode ∧
    i.opcode ∈ Sys2Proof.opcodes

namespace Sys2Proof.Laws.EncodedShape

theorem nop : Statement .nop :=
  ⟨rfl, rfl, show 0x00#8 ∈ Sys2Proof.opcodes by decide⟩

theorem outa : Statement .outa :=
  ⟨rfl, rfl, show 0x01#8 ∈ Sys2Proof.opcodes by decide⟩

theorem outb : Statement .outb :=
  ⟨rfl, rfl, show 0x02#8 ∈ Sys2Proof.opcodes by decide⟩

theorem ldai (v : Byte) : Statement (.ldai v) :=
  ⟨rfl, rfl, show 0x10#8 ∈ Sys2Proof.opcodes by decide⟩

theorem ldbi (v : Byte) : Statement (.ldbi v) :=
  ⟨rfl, rfl, show 0x11#8 ∈ Sys2Proof.opcodes by decide⟩

theorem ldpi (v : Byte) : Statement (.ldpi v) :=
  ⟨rfl, rfl, show 0x12#8 ∈ Sys2Proof.opcodes by decide⟩

theorem stap (v : Byte) : Statement (.stap v) :=
  ⟨rfl, rfl, show 0x20#8 ∈ Sys2Proof.opcodes by decide⟩

theorem stbp (v : Byte) : Statement (.stbp v) :=
  ⟨rfl, rfl, show 0x21#8 ∈ Sys2Proof.opcodes by decide⟩

theorem ldap (v : Byte) : Statement (.ldap v) :=
  ⟨rfl, rfl, show 0x22#8 ∈ Sys2Proof.opcodes by decide⟩

theorem ldbp (v : Byte) : Statement (.ldbp v) :=
  ⟨rfl, rfl, show 0x23#8 ∈ Sys2Proof.opcodes by decide⟩

theorem movba : Statement .movba :=
  ⟨rfl, rfl, show 0x24#8 ∈ Sys2Proof.opcodes by decide⟩

theorem movab : Statement .movab :=
  ⟨rfl, rfl, show 0x25#8 ∈ Sys2Proof.opcodes by decide⟩

theorem pga : Statement .pga :=
  ⟨rfl, rfl, show 0x2d#8 ∈ Sys2Proof.opcodes by decide⟩

theorem pgb : Statement .pgb :=
  ⟨rfl, rfl, show 0x2e#8 ∈ Sys2Proof.opcodes by decide⟩

theorem ldpp (v : Byte) : Statement (.ldpp v) :=
  ⟨rfl, rfl, show 0x2f#8 ∈ Sys2Proof.opcodes by decide⟩

theorem ldad (v : Addr) : Statement (.ldad v) :=
  ⟨rfl, rfl, show 0x30#8 ∈ Sys2Proof.opcodes by decide⟩

theorem ldax : Statement .ldax :=
  ⟨rfl, rfl, show 0x31#8 ∈ Sys2Proof.opcodes by decide⟩

theorem ldbx : Statement .ldbx :=
  ⟨rfl, rfl, show 0x32#8 ∈ Sys2Proof.opcodes by decide⟩

theorem add : Statement .add :=
  ⟨rfl, rfl, show 0x40#8 ∈ Sys2Proof.opcodes by decide⟩

theorem adc : Statement .adc :=
  ⟨rfl, rfl, show 0x41#8 ∈ Sys2Proof.opcodes by decide⟩

theorem jmp (v : Addr) : Statement (.jmp v) :=
  ⟨rfl, rfl, show 0xf0#8 ∈ Sys2Proof.opcodes by decide⟩

theorem jmpa : Statement .jmpa :=
  ⟨rfl, rfl, show 0xf1#8 ∈ Sys2Proof.opcodes by decide⟩

theorem jmpab : Statement .jmpab :=
  ⟨rfl, rfl, show 0xf2#8 ∈ Sys2Proof.opcodes by decide⟩

theorem jc (v : Addr) : Statement (.jc v) :=
  ⟨rfl, rfl, show 0xf3#8 ∈ Sys2Proof.opcodes by decide⟩

theorem jca (x y : Byte) : Statement (.jca x y) :=
  ⟨rfl, rfl, show 0xf4#8 ∈ Sys2Proof.opcodes by decide⟩

theorem jcab (x y : Byte) : Statement (.jcab x y) :=
  ⟨rfl, rfl, show 0xf5#8 ∈ Sys2Proof.opcodes by decide⟩

theorem jz (v : Addr) : Statement (.jz v) :=
  ⟨rfl, rfl, show 0xf6#8 ∈ Sys2Proof.opcodes by decide⟩

theorem jzb (x y : Byte) : Statement (.jzb x y) :=
  ⟨rfl, rfl, show 0xf7#8 ∈ Sys2Proof.opcodes by decide⟩

theorem hlt : Statement .hlt :=
  ⟨rfl, rfl, show 0xff#8 ∈ Sys2Proof.opcodes by decide⟩

end Sys2Proof.Laws.EncodedShape
end

