-- ==== Sys2Proof/Laws/Step.lean ====
section
/-! SUPPORT. What a step can do, said once (spec 40_execution_cycle.md R87), and the unfolding of a run. -/

namespace Sys2Proof.Machine

/-- A rejected opcode is the first byte. -/
theorem decode_unimplemented {op op' : Byte} {rest : List Byte}
    (h : decode (op :: rest) = .unimplementedOpcode op') : op' = op := by
  simp only [decode, decodeI, decodeW, decodeX] at h
  split at h <;> (try split at h) <;> first | cases h; rfl | cases h

/-- The step inversion: a stopped CORE stays as it is; a running one runs the decoded instruction or
takes UnimplementedOpcode. -/
theorem step_cases {s t : State} (h : step s = .next t) :
    (¬ s.running ∧ t = s) ∨
    (s.running ∧ ∃ i rest, decode s.fetchWindow = .instr i rest ∧ exec i s.closeLoad = .next t) ∨
    (s.running ∧ ∃ op, decode s.fetchWindow = .unimplementedOpcode op ∧
      t = s.closeLoad.raiseUnimplementedOpcode (s.readProgram s.pc)) := by
  unfold step at h
  split at h
  · rename_i hf
    injection h with h
    exact .inl ⟨fun hr => by simp [hr.1] at hf, h.symm⟩
  · rename_i hf
    split at h
    · rename_i hh
      injection h with h
      exact .inl ⟨fun hr => by simp [hr.2] at hh, h.symm⟩
    · rename_i hh
      have hr : s.running := by
        refine ⟨?_, by simpa using hh⟩
        cases hs : s.faulted <;> simp_all
      split at h
      · rename_i i rest hd
        exact .inr (.inl ⟨hr, i, rest, hd, h⟩)
      · rename_i op hd
        injection h with h
        exact .inr (.inr ⟨hr, op, hd, h.symm⟩)
      · rename_i hd
        exact absurd hd (decode_three_ne_truncated _ _ _)

@[simp] theorem run_zero (s : State) : run 0 s = .next s := rfl

/-- A run of `n + 1` steps is a step and, where it answers a state, `n` more. -/
theorem run_succ (n : Nat) (s : State) :
    run (n + 1) s =
      match step s with
      | .next t => run n t
      | .fault r => .fault r
      | .refused r => .refused r := rfl

/-- The first of `n + 1` steps, then the others. -/
theorem run_succ_of_next {s t : State} (n : Nat) (h : step s = .next t) : run (n + 1) s = run n t := by
  rw [run_succ, h]

/-- A run of `n + 1` steps that answers a state went through the state after its first step. -/
theorem run_succ_cases {n : Nat} {s u : State} (h : run (n + 1) s = .next u) :
    ∃ t, step s = .next t ∧ run n t = .next u := by
  rw [run_succ] at h
  split at h
  · rename_i t ht
    exact ⟨t, ht, h⟩
  · cases h
  · cases h

end Sys2Proof.Machine
end

