-- ==== Sys2Proof/Tests/Slice0.lean ====
section
/-! SUPPORT. The model's own tests. Expected values come from spec 95_test_vectors.md (V-… and S…) and
from the examples of the instruction rules; words are written out from the encodings of
30_encoding.md R72. The last part shows, for each statement with hypotheses, a state that meets them. -/

namespace Sys2Proof.Tests

open Sys2Proof.Machine

/-- The state a step or a meaning answers, if it answers one. -/
def after : Result → Option State
  | .next t => some t
  | .fault _ => none
  | .refused _ => none

/-- The reset state with program bytes at PC, that is at address 0. -/
def prog (bytes : List Byte) : State := State.reset.placeAtPc bytes

/-- What one step of a state leaves of A, B, F, P and PC. -/
def regs (s : State) : Option (Byte × Byte × Byte × Byte × Addr) :=
  (after (step s)).map fun t => (t.a, t.b, t.f, t.p, t.pc)

/-! ## Well-formedness: one ill-formed term for each check -/

theorem test_wf_byte_range : SourceItem.wf (.instr .ldai (some (.number 256))) = false := by decide
theorem test_wf_byte_no_label : SourceItem.wf (.instr .stap (some (.label ['x']))) = false := by decide
theorem test_wf_byte_missing : SourceItem.wf (.instr .ldai none) = false := by decide
theorem test_wf_addr_range : SourceItem.wf (.instr .jmp (some (.number 65536))) = false := by decide
theorem test_wf_addr_missing : SourceItem.wf (.instr .jmp none) = false := by decide
theorem test_wf_no_operand : SourceItem.wf (.instr .add (some (.number 0))) = false := by decide
theorem test_wf_ignored_range : SourceItem.wf (.instr .jca (some (.number 65536))) = false := by decide
theorem test_wf_org_range : SourceItem.wf (.org 65536) = false := by decide
theorem test_wf_raw_byte_range : SourceItem.wf (.byte 256) = false := by decide
theorem test_wf_image_too_long : imageWf (List.replicate 65537 0x00#8) = false := by
  rw [imageWf, List.length_replicate]; decide
theorem test_wf_accepts : SourceItem.wf (.instr .jzb none) = true ∧
    SourceItem.wf (.instr .jc (some (.label ['x']))) = true ∧
    SourceItem.wf (.instr .ldpi (some (.number 255))) = true := by decide

/-! ## Decoding: each row's word, written out from its encoding pattern (R72) -/

theorem test_decode_nop : decode [0b00000000#8] = .instr .nop [] := by decide
theorem test_decode_outa : decode [0b00000001#8] = .instr .outa [] := by decide
theorem test_decode_outb : decode [0b00000010#8] = .instr .outb [] := by decide
theorem test_decode_ldai : decode [0b00010000#8, 0x5a#8] = .instr (.ldai 0x5a#8) [] := by decide
theorem test_decode_ldbi : decode [0b00010001#8, 0x5a#8] = .instr (.ldbi 0x5a#8) [] := by decide
theorem test_decode_ldpi : decode [0b00010010#8, 0x80#8] = .instr (.ldpi 0x80#8) [] := by decide
theorem test_decode_stap : decode [0b00100000#8, 0x34#8] = .instr (.stap 0x34#8) [] := by decide
theorem test_decode_stbp : decode [0b00100001#8, 0xff#8] = .instr (.stbp 0xff#8) [] := by decide
theorem test_decode_ldap : decode [0b00100010#8, 0x05#8] = .instr (.ldap 0x05#8) [] := by decide
theorem test_decode_ldbp : decode [0b00100011#8, 0x07#8] = .instr (.ldbp 0x07#8) [] := by decide
theorem test_decode_movba : decode [0b00100100#8] = .instr .movba [] := by decide
theorem test_decode_movab : decode [0b00100101#8] = .instr .movab [] := by decide
theorem test_decode_pga : decode [0b00101101#8] = .instr .pga [] := by decide
theorem test_decode_pgb : decode [0b00101110#8] = .instr .pgb [] := by decide
theorem test_decode_ldpp : decode [0b00101111#8, 0x40#8] = .instr (.ldpp 0x40#8) [] := by decide
theorem test_decode_ldad : decode [0b00110000#8, 0x12#8, 0x34#8] = .instr (.ldad 0x1234#16) [] := by decide
theorem test_decode_ldax : decode [0b00110001#8] = .instr .ldax [] := by decide
theorem test_decode_ldbx : decode [0b00110010#8] = .instr .ldbx [] := by decide
theorem test_decode_add : decode [0b01000000#8] = .instr .add [] := by decide
theorem test_decode_adc : decode [0b01000001#8] = .instr .adc [] := by decide
theorem test_decode_jmp : decode [0b11110000#8, 0x12#8, 0x34#8] = .instr (.jmp 0x1234#16) [] := by decide
theorem test_decode_jmpa : decode [0b11110001#8] = .instr .jmpa [] := by decide
theorem test_decode_jmpab : decode [0b11110010#8] = .instr .jmpab [] := by decide
theorem test_decode_jc : decode [0b11110011#8, 0x20#8, 0x00#8] = .instr (.jc 0x2000#16) [] := by decide
theorem test_decode_jca : decode [0b11110100#8, 0xaa#8, 0xbb#8] = .instr (.jca 0xaa#8 0xbb#8) [] := by decide
theorem test_decode_jcab : decode [0b11110101#8, 0xaa#8, 0xbb#8] = .instr (.jcab 0xaa#8 0xbb#8) [] := by decide
theorem test_decode_jz : decode [0b11110110#8, 0x00#8, 0x0b#8] = .instr (.jz 0x000b#16) [] := by decide
theorem test_decode_jzb : decode [0b11110111#8, 0xaa#8, 0xbb#8] = .instr (.jzb 0xaa#8 0xbb#8) [] := by decide
theorem test_decode_hlt : decode [0b11111111#8] = .instr .hlt [] := by decide
theorem test_decode_illegal : decode [0x99#8, 0x00#8] = .unimplementedOpcode 0x99#8 := by decide
theorem test_decode_illegal_neighbours : decode [0x03#8] = .unimplementedOpcode 0x03#8 ∧
    decode [0x26#8] = .unimplementedOpcode 0x26#8 ∧ decode [0x42#8] = .unimplementedOpcode 0x42#8 ∧
    decode [0xfe#8] = .unimplementedOpcode 0xfe#8 := by decide
theorem test_decode_truncated : decode [0x10#8] = .truncated ∧ decode [0xf0#8, 0x00#8] = .truncated := by decide
theorem test_table_word_operands : decodeTableWord 24 0x3412f0 = some (.jmp 0x1234#16) := by decide
theorem test_table_word_short : decodeTableWord 8 0xff10 = some (.ldai 0x00#8) := by decide
theorem test_table_word_illegal : decodeTableWord 8 0x99 = none := by decide
theorem test_withFetchWord_runs :
    regs (State.reset.withFetchWord 16 0x5a10) = some (0x5a#8, 0x00#8, 0x00#8, 0x00#8, 0x0002#16) := by decide

/-! ## One step of each instruction -/

/-- V-OUT 1. -/
theorem test_nop : regs (prog [0x00#8]) = some (0x00#8, 0x00#8, 0x00#8, 0x00#8, 0x0001#16) := by decide
/-- V-OUT 4: the wrap. -/
theorem test_nop_wraps : regs { State.reset with pc := 0xffff#16 } =
    some (0x00#8, 0x00#8, 0x00#8, 0x00#8, 0x0000#16) := by decide
/-- V-OUT 2. -/
theorem test_outa : (after (step { prog [0x01#8] with a := 0x7f#8 })).map (·.diag) =
    some [.outA 0x7f#8] := by decide
/-- R95's example, after an earlier event. -/
theorem test_outb : (after (step { prog [0x02#8] with b := 0x03#8, diag := [.addOverflow] })).map (·.diag) =
    some [.addOverflow, .outB 0x03#8] := by decide
/-- V-LDI 4: a load writes no flag. -/
theorem test_ldai : regs { prog [0x10#8, 0x00#8] with a := 0x33#8, f := 0x01#8 } =
    some (0x00#8, 0x00#8, 0x01#8, 0x00#8, 0x0002#16) := by decide
/-- V-LDI 5: the operand comes from 0x0000 after the wrap. -/
theorem test_ldai_wraps : regs ({ State.reset with pc := 0xffff#16 }.placeAtPc [0x10#8, 0x77#8]) =
    some (0x77#8, 0x00#8, 0x00#8, 0x00#8, 0x0001#16) := by decide
/-- R97's example. -/
theorem test_ldbi : regs (prog [0x11#8, 0x03#8]) =
    some (0x00#8, 0x03#8, 0x00#8, 0x00#8, 0x0002#16) := by decide
/-- V-LDI 3. -/
theorem test_ldpi : regs (prog [0x12#8, 0x80#8]) =
    some (0x00#8, 0x00#8, 0x00#8, 0x80#8, 0x0002#16) := by decide
/-- R99's example, and its display read (S3). -/
theorem test_stap : (after (step { prog [0x20#8, 0x00#8] with a := 0xe0#8, p := 0x80#8 })).map
    (fun t => (t.dm, t.pc)) = some ([(0x8000, 0xe0#8)], 0x0002#16) := by decide
/-- V-PAGED 11: a store of 0 over a byte leaves the canonical form. -/
theorem test_stap_zero : (after (step { prog [0x20#8, 0x00#8] with dm := [(0, 0x05#8)] })).map (·.dm) =
    some [] := by decide
/-- V-PAGED 2. -/
theorem test_stbp : (after (step { prog [0x21#8, 0xff#8] with b := 0xcd#8, p := 0xff#8 })).map (·.dm) =
    some [(0xffff, 0xcd#8)] := by decide
/-- V-PAGED 3. -/
theorem test_ldap : regs { prog [0x22#8, 0x05#8] with p := 0x80#8, dm := [(0x8005, 0x42#8)] } =
    some (0x42#8, 0x00#8, 0x00#8, 0x80#8, 0x0002#16) := by decide
/-- V-PAGED 4: the offset does not carry into P. -/
theorem test_ldbp : regs { prog [0x23#8, 0xff#8] with p := 0x7f#8, dm := [(0x7fff, 0x09#8)] } =
    some (0x00#8, 0x09#8, 0x00#8, 0x7f#8, 0x0002#16) := by decide
/-- V-PAGED 5. -/
theorem test_movba : regs { prog [0x24#8] with a := 0x01#8, b := 0x02#8 } =
    some (0x02#8, 0x02#8, 0x00#8, 0x00#8, 0x0001#16) := by decide
/-- V-PAGED 6. -/
theorem test_movab : regs { prog [0x25#8] with a := 0x01#8, b := 0x02#8 } =
    some (0x01#8, 0x01#8, 0x00#8, 0x00#8, 0x0001#16) := by decide
/-- V-PAGED 7. -/
theorem test_pga : regs { prog [0x2d#8] with a := 0x80#8, b := 0x03#8 } =
    some (0x80#8, 0x03#8, 0x00#8, 0x80#8, 0x0001#16) := by decide
/-- V-PAGED 8. -/
theorem test_pgb : regs { prog [0x2e#8] with a := 0x80#8, b := 0x03#8 } =
    some (0x80#8, 0x03#8, 0x00#8, 0x03#8, 0x0001#16) := by decide
/-- V-PAGED 9, its first step: the address uses the old P. -/
theorem test_ldpp : regs { prog [0x2f#8, 0x40#8] with dm := [(0x0040, 0x12#8), (0x1240, 0x34#8)] } =
    some (0x00#8, 0x00#8, 0x00#8, 0x12#8, 0x0002#16) := by decide
/-- V-DIR 1: P is not used. -/
theorem test_ldad : regs { prog [0x30#8, 0x12#8, 0x34#8] with p := 0x55#8, dm := [(0x1234, 0x9c#8)] } =
    some (0x9c#8, 0x00#8, 0x00#8, 0x55#8, 0x0003#16) := by decide
/-- V-DIR 6: the operand fetch wraps. -/
theorem test_ldad_wraps : regs ({ State.reset with pc := 0xfffe#16, dm := [(0x8000, 0xe0#8)] }.placeAtPc
    [0x30#8, 0x80#8, 0x00#8]) = some (0xe0#8, 0x00#8, 0x00#8, 0x00#8, 0x0001#16) := by decide
/-- V-DIR 2. -/
theorem test_ldax : regs { prog [0x31#8] with a := 0x12#8, b := 0x34#8, dm := [(0x1234, 0x9c#8)] } =
    some (0x9c#8, 0x34#8, 0x00#8, 0x00#8, 0x0001#16) := by decide
/-- V-DIR 3. -/
theorem test_ldbx : regs { prog [0x32#8] with a := 0x12#8, b := 0x34#8, dm := [(0x1234, 0x9c#8)] } =
    some (0x12#8, 0x9c#8, 0x00#8, 0x00#8, 0x0001#16) := by decide
/-- V-ADD, row FF 02. -/
theorem test_add_overflow : (after (step { prog [0x40#8] with a := 0xff#8, b := 0x02#8 })).map
    (fun t => (t.a, t.b, t.f, t.diag)) = some (0x01#8, 0x02#8, 0x01#8, [.addOverflow]) := by decide
/-- V-ADD, row 7F 80, with C set before. -/
theorem test_add_clears_carry : (after (step { prog [0x40#8] with a := 0x7f#8, b := 0x80#8, f := 0x01#8 })).map
    (fun t => (t.a, t.f, t.diag)) = some (0xff#8, 0x00#8, []) := by decide
/-- V-ADC, row 10 03 1. -/
theorem test_adc_is_literal : (after (step { prog [0x41#8] with a := 0x10#8, b := 0x03#8, f := 0x01#8 })).map
    (fun t => (t.a, t.f, t.diag)) = some (0x10#8, 0x00#8, []) := by decide
/-- V-ADC, row FF 00 1. -/
theorem test_adc_overflow : (after (step { prog [0x41#8] with a := 0xff#8, f := 0x01#8 })).map
    (fun t => (t.a, t.f, t.diag)) = some (0x00#8, 0x01#8, [.addOverflow]) := by decide

/-- A program of V-CT: the bytes at 0x0100. -/
def at0100 (bytes : List Byte) (a b f : Byte) : State :=
  { State.reset with a := a, b := b, f := f, pc := 0x0100#16 }.placeAtPc bytes

/-- PC after one step. -/
def pcAfter (s : State) : Option Addr := (after (step s)).map (·.pc)

/-- V-CT 1. -/
theorem test_jmp : pcAfter (at0100 [0xf0#8, 0x12#8, 0x34#8] 0x00#8 0x00#8 0x00#8) = some 0x1234#16 := by decide
/-- V-CT 2. -/
theorem test_jmpa : pcAfter (at0100 [0xf1#8] 0x85#8 0x11#8 0x00#8) = some 0x0085#16 := by decide
/-- V-CT 3. -/
theorem test_jmpab : pcAfter (at0100 [0xf2#8] 0x12#8 0x34#8 0x00#8) = some 0x1234#16 := by decide
/-- V-CT 4. -/
theorem test_jc_taken : pcAfter (at0100 [0xf3#8, 0x20#8, 0x00#8] 0x00#8 0x00#8 0x01#8) = some 0x2000#16 := by decide
/-- V-CT 5. -/
theorem test_jc_not_taken : pcAfter (at0100 [0xf3#8, 0x20#8, 0x00#8] 0x00#8 0x00#8 0x00#8) = some 0x0103#16 := by decide
/-- V-CT 6: zero-extended, the bytes AA BB ignored. -/
theorem test_jca_taken : pcAfter (at0100 [0xf4#8, 0xaa#8, 0xbb#8] 0x90#8 0x00#8 0x01#8) = some 0x0090#16 := by decide
/-- V-CT 7. -/
theorem test_jca_not_taken : pcAfter (at0100 [0xf4#8, 0xaa#8, 0xbb#8] 0x90#8 0x00#8 0x00#8) = some 0x0103#16 := by decide
/-- V-CT 8. -/
theorem test_jcab_taken : pcAfter (at0100 [0xf5#8, 0x00#8, 0x00#8] 0x12#8 0x34#8 0x01#8) = some 0x1234#16 := by decide
/-- V-CT 9. -/
theorem test_jcab_not_taken : pcAfter (at0100 [0xf5#8, 0x00#8, 0x00#8] 0x12#8 0x34#8 0x00#8) = some 0x0103#16 := by decide
/-- V-CT 10. -/
theorem test_jz_taken : pcAfter (at0100 [0xf6#8, 0x30#8, 0x00#8] 0x00#8 0x00#8 0x01#8) = some 0x3000#16 := by decide
/-- V-CT 11. -/
theorem test_jz_not_taken : pcAfter (at0100 [0xf6#8, 0x30#8, 0x00#8] 0x01#8 0x00#8 0x01#8) = some 0x0103#16 := by decide
/-- V-CT 12. -/
theorem test_jzb_taken : pcAfter (at0100 [0xf7#8, 0x00#8, 0x00#8] 0x00#8 0xc0#8 0x00#8) = some 0x00c0#16 := by decide
/-- V-CT 13. -/
theorem test_jzb_not_taken : pcAfter (at0100 [0xf7#8, 0x00#8, 0x00#8] 0xff#8 0xc0#8 0x00#8) = some 0x0103#16 := by decide
/-- V-HALT 3. -/
theorem test_hlt : (after (step ({ State.reset with pc := 0xffff#16 }.placeAtPc [0xff#8]))).map
    (fun t => (t.halted, t.pc)) = some (true, 0x0000#16) := by decide
/-- V-FAULT 1, with the fault port. -/
theorem test_fault : (after (step ({ State.reset with a := 0x07#8, pc := 0x0002#16 }.placeAtPc [0x99#8]))).map
    (fun t => (faultPort t, t.a, t.pc, t.diag)) =
      some ((1, some (0x99#8, 0x0002#16)), 0x07#8, 0x0002#16, []) := by decide
/-- V-HALT 2: a halted step changes nothing. -/
theorem test_halted_step : after (step { prog [0x40#8] with a := 0x08#8, halted := true }) =
    some { prog [0x40#8] with a := 0x08#8, halted := true } := by decide

/-! ## Ports, display, assembler -/

/-- R146: an image is written from address 0. -/
theorem test_load : (after (boot (some [0x10#8, 0x00#8, 0x07#8]))).map (·.pm) =
    some [(0, 0x10#8), (2, 0x07#8)] := by decide
theorem test_fb_read_refused : fbRead 0x7fff#16 State.reset = .refused .framebufferReadBelowBase := by rfl
theorem test_fb_read : fbRead 0xffff#16 { State.reset with dm := [(0xffff, 0x42#8)] } = .next 0x42#8 := by rfl
/-- R56, R57: the first and the last pixel, and the first byte past it. -/
theorem test_pixels : pixelAt 0x8000#16 = some (0, 0) ∧ pixelAt 0xfe77#16 = some (227, 141) ∧
    pixelAt 0xfe78#16 = none := by decide
/-- S3. -/
theorem test_colour : colourOf 0xe0#8 = (255#8, 0#8, 0#8) := by rfl
/-- Program 1 of 95_test_vectors.md, from its source items. -/
theorem test_assemble : assemble [.instr .ldai (some (.number 3)), .instr .ldbi (some (.number 255)),
    .label ['l'], .instr .add none, .instr .jz (some (.label ['d'])), .instr .jmp (some (.label ['l'])),
    .label ['d'], .instr .hlt none] =
      some [0x10#8, 0x03#8, 0x11#8, 0xff#8, 0x40#8, 0xf6#8, 0x00#8, 0x0b#8, 0xf0#8, 0x00#8, 0x04#8, 0xff#8] := by
  decide
/-- R76: a label names the address of the next instruction, here past an `.org` and a raw byte. -/
theorem test_label_next_instruction : assemble [.instr .jmp (some (.label ['l'])), .label ['l'], .org 4,
    .byte 0, .instr .hlt none] = some [0xf0#8, 0x00#8, 0x05#8, 0x00#8, 0x00#8, 0xff#8] := by decide
/-- R76: case, number forms, blanks and comments. -/
theorem test_parse : parseLine ['l', ':', ' ', 'j', 'M', 'p', '\t', '0', 'x', '1', 'F', ' ', ';', 'x'] =
    some [.label ['l'], .instr .jmp (some (.number 31))] := by decide

/-! ## States that meet the hypotheses of the statements -/

/-- The reset state meets `State.Inv`; a state after a step of it does too. -/
theorem witness_reset_inv : State.reset.Inv := by decide

/-- A running state with an ADD at PC, legal F = 0x01 and memories in canonical form. -/
def busy : State := { prog [0x40#8] with a := 0xff#8, b := 0x01#8, f := 0x01#8, dm := [(0x8000, 0x42#8)] }

/-- A running state with STAP 0 at PC, P = 0x80, A = 0xE0. -/
def storing : State := { prog [0x20#8, 0x00#8] with a := 0xe0#8, p := 0x80#8 }

/-- A running state with an illegal opcode byte at PC. -/
def illegal : State := prog [0x99#8]

/-- A state that the fault of `illegal` leaves. -/
def broken : State := illegal.raiseUnimplementedOpcode 0x99#8

theorem witness_PagedStoreWritesOneByte : storing.dm.wf = true ∧
    (0x8001#16 : Addr) ≠ storing.pagedAddr 0x00#8 := by decide
theorem witness_AdcIsAParityIncrement : State.reset.f = 0x00#8 ∧ busy.f = 0x01#8 := by decide
theorem witness_HaltedStepIsANoOp : ({ State.reset with halted := true } : State).halted = true := by decide
theorem witness_HaltedStateIsFinalUntilReset : ({ busy with halted := true } : State).halted = true := by decide
theorem witness_FaultedStateIsFinalUntilReset : broken.faulted ≠ none := by decide
theorem witness_StepRunsTheDecodedInstruction : busy.running ∧
    decode busy.fetchWindow = .instr .add [0x00#8, 0x00#8] := by decide
/-- Every byte of the encoding, its first and its last among them. -/
theorem witness_StepRunsTheEncodedBytesAtPc : (prog [0xf0#8, 0x12#8, 0x34#8]).running ∧
    ∀ k b, (encode (.jmp 0x1234#16))[k]? = some b →
      (prog [0xf0#8, 0x12#8, 0x34#8]).readProgram ((prog [0xf0#8, 0x12#8, 0x34#8]).pc + BitVec.ofNat 16 k) = b := by
  refine ⟨by decide, fun k b h => ?_⟩
  match k, h with
  | 0, h => injection h
  | 1, h => injection h
  | 2, h => injection h
  | k + 3, h => cases h
theorem witness_StepDecodesOrRaisesUnimplementedOpcode : busy.running ∧ busy.readProgram busy.pc ∈ opcodes ∧
    illegal.running ∧ illegal.readProgram illegal.pc ∉ opcodes := by decide
theorem witness_IllegalOpcodeIsRecordedPrecisely : illegal.running ∧
    illegal.readProgram illegal.pc ∉ opcodes := by decide
theorem witness_StraightStepsAdvanceByTheLength : busy.running ∧
    decode busy.fetchWindow = .instr .add [0x00#8, 0x00#8] ∧ Instr.isJump .add = false ∧
    (after (step busy)).isSome = true := by decide
/-- A running state with JMP 0x1234 at 0xFFFF. -/
def wrapping : State := { State.reset with pc := 0xffff#16 }.placeAtPc [0xf0#8, 0x12#8, 0x34#8]
theorem witness_OperandFetchWrapsAtTheTop : wrapping.running ∧ wrapping.pc = 0xffff#16 ∧
    wrapping.readProgram 0xffff#16 = 0xf0#8 ∧ wrapping.readProgram 0x0000#16 = 0x12#8 ∧
    wrapping.readProgram 0x0001#16 = 0x34#8 := by decide
/-- Both sides of the equivalence, at both ends of the illegal space and beside it. -/
theorem witness_IllegalOpcodeSpaceFaults : decode [0x03#8] = .unimplementedOpcode 0x03#8 ∧
    decode [0xfe#8] = .unimplementedOpcode 0xfe#8 ∧ decode [0x02#8] = .instr .outb [] ∧
    decode [0xff#8] = .instr .hlt [] ∧ illegal.running ∧ illegal.readProgram illegal.pc ∉ opcodes := by decide
theorem witness_OpcodeAloneDecidesTheLength : decode [0x10#8, 0x00#8] = .instr (.ldai 0x00#8) [] ∧
    decode [0x10#8, 0xff#8, 0x99#8] = .instr (.ldai 0xff#8) [0x99#8] := by decide
theorem witness_DecodeReadsExactlyTheEncoding :
    decode [0xf4#8, 0xaa#8, 0xbb#8, 0x01#8] = .instr (.jca 0xaa#8 0xbb#8) [0x01#8] := by decide
theorem witness_AssemblerWritesTheEncoding : 65535 < 65536 ∧ 255 < 256 ∧
    assemble [.instr .jmp (some (.number 65535))] = some [0xf0#8, 0xff#8, 0xff#8] ∧
    assemble [.instr .ldai (some (.number 255))] = some [0x10#8, 0xff#8] := by decide
theorem witness_EveryStepKeepsTheInvariant : busy.Inv ∧ (after (step busy)).isSome = true ∧
    illegal.Inv ∧ (after (step illegal)).isSome = true := by decide
theorem witness_PortsKeepTheInvariant : State.reset.Inv ∧ (after (load [0x10#8] State.reset)).isSome = true ∧
    (after (boot (some [0x10#8]))).isSome = true ∧ (after (resetPort broken)).isSome = true := by decide
theorem witness_CanonicalMemoriesThatReadAlikeAreEqual : Memory.wf [(0, 0x01#8), (65535, 0x02#8)] = true ∧
    Memory.wf (Memory.write [(65535, 0x02#8)] 0 0x01#8) = true ∧
    ∀ a, a < 65536 → Memory.read [(0, 0x01#8), (65535, 0x02#8)] a =
      Memory.read (Memory.write [(65535, 0x02#8)] 0 0x01#8) a :=
  ⟨by decide, by decide, fun _ _ => rfl⟩
theorem witness_ProgramMemoryIsImmutable : (after (exec .add busy)).isSome = true ∧
    (after (run 2 busy)).isSome = true ∧ (after (load [0x10#8] State.reset)).isSome = true := by decide
/-- For each clause an instruction that meets its condition. -/
theorem witness_OnlyWritersChangeTheirState : (after (exec .nop busy)).isSome = true ∧
    Instr.writesA .nop = false ∧ Instr.writesB .nop = false ∧ Instr.writesP .nop = false ∧
    Instr.writesF .nop = false ∧ Instr.nop ≠ .hlt ∧ Instr.isStore .nop = false ∧ Instr.isJump .nop = false ∧
    (after (exec (.stap 0x00#8) storing)).isSome = true ∧
    (0x8001#16 : Addr) ≠ storing.pagedAddr 0x00#8 := by decide
theorem witness_OnlyReadersDependOnARegister : (after (exec (.ldbi 0x01#8) busy)).isSome = true ∧
    Instr.readsA (.ldbi 0x01#8) = false ∧ Instr.readsB (.ldbi 0x01#8) = false ∧
    Instr.readsP (.ldbi 0x01#8) = false ∧ Instr.readsF (.ldbi 0x01#8) = false := by decide
theorem witness_EmittedEventsAreExact : (after (exec .add busy)).map (·.diag) = some [.addOverflow] ∧
    (after (exec .adc busy)).map (·.diag) = some [] := by decide
theorem witness_DiagStreamIsWriteOnly : (after (step busy)).isSome = true := by decide
/-- For each clause a step that changes its state. -/
theorem witness_ControlStateChangesHaveTheirCause :
    (after (step (prog [0x12#8, 0x80#8]))).map (·.p) = some 0x80#8 ∧
    (after (step (prog [0xff#8]))).map (·.halted) = some true ∧
    (after (step illegal)).map (·.faulted) ≠ some none := by decide
theorem witness_DataBytesChangeOnlyByPagedStores : storing.dm.wf = true ∧
    (after (step storing)).map (·.memRead 0x8000#16) = some 0xe0#8 ∧
    storing.memRead 0x8000#16 = 0x00#8 := by decide
theorem witness_StoredByteIsReadBackInEveryMode : storing.dm.wf = true := by decide
/-- Both sides of the framebuffer's first address. -/
theorem witness_DataWriteSetsOneByte : busy.dm.wf = true ∧ (0x8000#16 : Addr) ≤ 0x8000#16 ∧
    (0x7fff#16 : Addr) < 0x8000#16 ∧ (0x7fff#16 : Addr) ≠ 0x8000#16 ∧
    fbRead 0x8000#16 busy = .next 0x42#8 :=
  ⟨by decide, by decide, by decide, by decide, rfl⟩
theorem witness_FramebufferReadCoversTheUpperHalf : 0x8000 ≤ (0x8000#16 : Addr).toNat ∧
    (0x7fff#16 : Addr).toNat < 0x8000 := by decide
theorem witness_FramebufferByteShowsItsColour : storing.dm.wf = true ∧ storing.p = 0x80#8 ∧
    storing.a = 0b11100000#8 := by decide
/-- Images at and past the limit, and a closed port. -/
theorem witness_LoadPlacesTheImage : State.reset.pm.wf = true ∧ State.reset.loadOpen = true ∧
    (List.replicate 65536 0x01#8).length ≤ 65536 ∧ 65536 < (List.replicate 65537 0x01#8).length ∧
    State.reset.closeLoad.loadOpen = false := by
  rw [List.length_replicate, List.length_replicate]; decide
theorem witness_StartupGivesARunningCoreAtZero : (List.replicate 65536 0x01#8).length ≤ 65536 := by
  rw [List.length_replicate]
theorem witness_NoLoadAfterTheFirstStep : busy.running ∧ (after (step busy)).isSome = true := by decide
theorem witness_FaultPortShowsTheRecord : busy.faulted = none ∧ illegal.running ∧
    illegal.readProgram illegal.pc ∉ opcodes := by decide

end Sys2Proof.Tests
end

/-! The statements of 10_state.md. A stopped CORE (halted or faulted) is a fixed point of `step`,
and so of every run; only the reset port leaves it. -/

namespace Sys2Proof.Machine

/-- R81: the step of a halted CORE changes nothing. A fault record beside the flag makes no difference,
since the faulted branch answers the same state (R82). -/
theorem step_of_halted {s : State} (hh : s.halted = true) : step s = .next s := by
  rw [step, if_pos hh, ite_self]

/-- A state that one step keeps, every run keeps. -/
theorem run_of_step_fixed {s : State} (hs : step s = .next s) (n : Nat) : run n s = .next s := by
  induction n with
  | zero => exact run_zero s
  | succ n ih => rw [run_succ_of_next n hs, ih]

/-- R135, R145: the reset port answers the reset state, whatever the state before. -/
@[simp] theorem resetPort_eq (s : State) : resetPort s = .next State.reset := rfl

/-- Settles O20: a halted state is a fixed point of `step`, so of every run. -/
theorem haltedStateIsFinalUntilReset : Obligations.HaltedStateIsFinalUntilReset :=
  fun s n hh => ⟨run_of_step_fixed (step_of_halted hh) n, resetPort_eq s⟩

end Sys2Proof.Machine

/-! The statements of 20_memory.md. No meaning writes program memory, so neither a step nor a run
does; a data write sets the byte at its address alone, and `fb_read` shows data memory as it is. -/

namespace Sys2Proof.Machine

/-- R42: no instruction writes program memory. ADD and ADC go through the shared addition, the
conditional jumps through `jumpIf`; every other meaning is a chain of updates of other fields. -/
theorem exec_pm {i : Instr} {s t : State} (h : exec i s = .next t) : t.pm = s.pm := by
  cases i with
  | add | adc => cases h; exact State.addToA_pm _ _
  | jc | jca | jcab | jz | jzb => cases h; exact State.jumpIf_pm _ _ _
  | _ => cases h; rfl

/-- R42 over a step: closing the load port and taking UnimplementedOpcode leave program memory too. -/
theorem step_pm {s t : State} (h : step s = .next t) : t.pm = s.pm := by
  obtain ⟨-, rfl⟩ | ⟨-, i, rest, -, hexec⟩ | ⟨-, op, -, rfl⟩ := step_cases h
  · rfl
  · rw [exec_pm hexec, State.closeLoad_pm]
  · rw [State.raiseUnimplementedOpcode_pm, State.closeLoad_pm]

/-- What every step keeps, every run keeps. -/
theorem run_keeps {Keeps : State → Prop} (hstep : ∀ s t, step s = .next t → Keeps s → Keeps t)
    {n : Nat} {s t : State} (h : run n s = .next t) (hs : Keeps s) : Keeps t := by
  induction n generalizing s with
  | zero => cases h; exact hs
  | succ n ih =>
    obtain ⟨u, hu, hrest⟩ := run_succ_cases h
    exact ih hrest (hstep s u hu hs)

/-- R42 over a run. -/
theorem run_pm {n : Nat} {s t : State} (h : run n s = .next t) : t.pm = s.pm :=
  run_keeps (Keeps := fun u => u.pm = s.pm) (fun _ _ hu hk => (step_pm hu).trans hk) h rfl

/-- Settles O39: from the meanings to steps to runs; the load clause is `load_next`. -/
theorem programMemoryIsImmutable : Obligations.ProgramMemoryIsImmutable :=
  ⟨fun _ _ _ => exec_pm, fun _ _ _ => run_pm, fun _ _ _ h => (load_next h).1⟩

/-- R43, R44: in a canonical data memory the byte written is the byte read. -/
theorem State.memRead_memWrite_same {s : State} (hwf : s.dm.wf = true) (addr : Addr) (v : Byte) :
    (s.memWrite addr v).memRead addr = v :=
  Memory.read_write_same hwf addr.toNat v

/-- R54: in the framebuffer region `fb_read` answers the data byte. -/
theorem fbRead_of_le {addr : Addr} (s : State) (h : 0x8000#16 ≤ addr) :
    fbRead addr s = .next (s.memRead addr) :=
  if_pos h

/-- A data write below the framebuffer region leaves every answer of `fb_read`: an answered address
lies in the region, so it is not the written one. -/
theorem fbRead_memWrite_of_lt {s : State} {addr a : Addr} {v v' : Byte} (hlt : addr < 0x8000#16)
    (h : fbRead a s = .next v') : fbRead a (s.memWrite addr v) = .next v' := by
  obtain ⟨hle, rfl⟩ := fbRead_next h
  have hne : a ≠ addr := by rintro rfl; exact BitVec.not_le.mpr hlt hle
  rw [fbRead_of_le _ hle, State.memRead_memWrite_of_ne s v hne]

/-- Settles O48: the laws of a data write, and `fb_read` on either side of 0x8000. -/
theorem dataWriteSetsOneByte : Obligations.DataWriteSetsOneByte := by
  intro s addr v hwf
  have hsame := State.memRead_memWrite_same hwf addr v
  refine ⟨rfl, hsame, fun _ => State.memRead_memWrite_of_ne s v, fun hle => ?_,
    fun hlt _ _ => fbRead_memWrite_of_lt hlt⟩
  rw [fbRead_of_le _ hle, hsame]

end Sys2Proof.Machine


/-! The statements of 30_encoding.md. The decoder rejects a byte exactly when it is none of the 29
opcodes (R73, R74), and a running CORE that meets such a byte takes UnimplementedOpcode (R84). -/

namespace Sys2Proof

/-! An operand reader answers an instruction or runs out of bytes; it never rejects an opcode. -/

@[simp] theorem decodeI_ne_unimplementedOpcode (mk : Byte → Instr) (rest : List Byte) (op : Byte) :
    decodeI mk rest ≠ .unimplementedOpcode op := by
  unfold decodeI
  split <;> exact Decoded.noConfusion

@[simp] theorem decodeW_ne_unimplementedOpcode (mk : Addr → Instr) (rest : List Byte) (op : Byte) :
    decodeW mk rest ≠ .unimplementedOpcode op := by
  unfold decodeW
  split <;> exact Decoded.noConfusion

@[simp] theorem decodeX_ne_unimplementedOpcode (mk : Byte → Byte → Instr) (rest : List Byte) (op : Byte) :
    decodeX mk rest ≠ .unimplementedOpcode op := by
  unfold decodeX
  split <;> exact Decoded.noConfusion

/-- R72: none of the 29 opcode bytes is rejected, whatever follows it. -/
theorem decode_ne_unimplementedOpcode_of_mem {op : Byte} (h : op ∈ opcodes) (rest : List Byte) :
    decode (op :: rest) ≠ .unimplementedOpcode op := by
  have hall : ∀ op ∈ opcodes, decode (op :: rest) ≠ .unimplementedOpcode op := by
    simp [opcodes, decode]
  exact hall op h

/-- R73: a byte outside the table is rejected by name. Each arm of the opcode map but the last is for
a byte of the table. -/
theorem decode_of_notMem_opcodes {op : Byte} (h : op ∉ opcodes) (rest : List Byte) :
    decode (op :: rest) = .unimplementedOpcode op := by
  simp only [decode]
  split
  case h_30 => rfl
  all_goals exact absurd (by decide) h

/-- R73: the rejected bytes are those outside the table. -/
theorem decode_eq_unimplementedOpcode_iff (op : Byte) (rest : List Byte) :
    decode (op :: rest) = .unimplementedOpcode op ↔ op ∉ opcodes :=
  ⟨fun hd hmem => decode_ne_unimplementedOpcode_of_mem hmem rest hd,
    fun h => decode_of_notMem_opcodes h rest⟩

/-- R73: the bytes outside the table are the gaps between its entries. -/
theorem notMem_opcodes_iff (op : Byte) :
    op ∉ opcodes ↔
      ((0x03#8 ≤ op ∧ op ≤ 0x0f#8) ∨ (0x13#8 ≤ op ∧ op ≤ 0x1f#8) ∨ (0x26#8 ≤ op ∧ op ≤ 0x2c#8) ∨
       (0x33#8 ≤ op ∧ op ≤ 0x3f#8) ∨ (0x42#8 ≤ op ∧ op ≤ 0xef#8) ∨ (0xf8#8 ≤ op ∧ op ≤ 0xfe#8)) := by
  simp only [opcodes, List.mem_cons, List.not_mem_nil, or_false, not_or]
  bv_omega

/-- R72: the numbers below 256 that are opcode bytes are those of the table, each once. -/
theorem filter_mem_opcodes_perm :
    ((List.range 256).filter fun n => opcodes.contains (BitVec.ofNat 8 n)).Perm (opcodes.map BitVec.toNat) := by
  have hnodup : (opcodes.map BitVec.toNat).Nodup := by decide
  refine (List.perm_ext_iff_of_nodup (List.nodup_range.filter _) hnodup).mpr fun n => ?_
  simp only [List.mem_filter, List.mem_range, List.contains_iff_mem, List.mem_map]
  constructor
  · rintro ⟨hlt, hmem⟩
    exact ⟨_, hmem, Nat.mod_eq_of_lt hlt⟩
  · rintro ⟨op, hmem, rfl⟩
    exact ⟨op.isLt, by rwa [BitVec.ofNat_toNat, BitVec.setWidth_eq]⟩

/-- R73: 29 of the 256 bytes are in the table, so 227 are not. -/
theorem length_filter_notMem_opcodes :
    ((List.range 256).filter fun n => !opcodes.contains (BitVec.ofNat 8 n)).length = 227 := by
  have hsplit := (List.range 256).length_eq_length_filter_add fun n => opcodes.contains (BitVec.ofNat 8 n)
  have htable : (opcodes.map BitVec.toNat).length = 29 := rfl
  rw [filter_mem_opcodes_perm.length_eq, htable, List.length_range] at hsplit
  omega

namespace Machine

/-- R84, R132: a running CORE with a byte outside the table at PC takes UnimplementedOpcode. -/
theorem step_of_notMem_opcodes {s : State} (hr : s.running) (h : s.readProgram s.pc ∉ opcodes) :
    step s = .next (s.closeLoad.raiseUnimplementedOpcode (s.readProgram s.pc)) := by
  obtain ⟨hfaulted, hhalted⟩ := hr
  have hdecode : decode s.fetchWindow = .unimplementedOpcode (s.readProgram s.pc) :=
    decode_of_notMem_opcodes h _
  simp [step, hfaulted, hhalted, hdecode]

/-- Settles O32: the rejected bytes are those outside the table, which are the six ranges; the step on
such a byte leaves the fault record and the PC. -/
theorem illegalOpcodeSpaceFaults : Obligations.IllegalOpcodeSpaceFaults :=
  ⟨fun op rest => (decode_eq_unimplementedOpcode_iff op rest).trans (notMem_opcodes_iff op),
    length_filter_notMem_opcodes,
    fun _ hr h => ⟨_, _, step_of_notMem_opcodes hr h, State.raiseUnimplementedOpcode_faulted _ _, rfl, rfl⟩⟩

/-- Settles O29: the six words are closed, so the decoder computes each. -/
theorem sourceProgramsDecode : Obligations.SourceProgramsDecode :=
  ⟨rfl, rfl, rfl, rfl, rfl, rfl⟩

end Machine

end Sys2Proof

/-! The statements of 40_execution_cycle.md. A running CORE executes what the bytes at PC decode to, or
takes UnimplementedOpcode (R84); a halted one does nothing (R81). -/

namespace Sys2Proof

/-! What an operand reader consumes when it answers an instruction. -/

theorem decodeI_instr {mk : Byte → Instr} {bs rest : List Byte} {i : Instr}
    (h : decodeI mk bs = .instr i rest) : ∃ v, bs = v :: rest ∧ i = mk v := by
  unfold decodeI at h
  split at h <;> cases h
  exact ⟨_, rfl, rfl⟩

theorem decodeW_instr {mk : Addr → Instr} {bs rest : List Byte} {i : Instr}
    (h : decodeW mk bs = .instr i rest) : ∃ hi lo, bs = hi :: lo :: rest ∧ i = mk (pair hi lo) := by
  unfold decodeW at h
  split at h <;> cases h
  exact ⟨_, _, rfl, rfl⟩

theorem decodeX_instr {mk : Byte → Byte → Instr} {bs rest : List Byte} {i : Instr}
    (h : decodeX mk bs = .instr i rest) : ∃ x1 x2, bs = x1 :: x2 :: rest ∧ i = mk x1 x2 := by
  unfold decodeX at h
  split at h <;> cases h
  exact ⟨_, _, rfl, rfl⟩

/-- R72: a decoded instruction has the first byte as its opcode. The arms of the opcode map are grouped
by format; its last arm answers no instruction. -/
theorem opcode_of_decode {op : Byte} {bs rest : List Byte} {i : Instr}
    (h : decode (op :: bs) = .instr i rest) : i.opcode = op := by
  simp only [decode] at h
  split at h
  case h_30 => cases h
  case h_4 | h_5 | h_6 | h_7 | h_8 | h_9 | h_10 | h_15 =>
    obtain ⟨_, -, rfl⟩ := decodeI_instr h
    rfl
  case h_16 | h_21 | h_24 | h_27 =>
    obtain ⟨_, _, -, rfl⟩ := decodeW_instr h
    rfl
  case h_25 | h_26 | h_28 =>
    obtain ⟨_, _, -, rfl⟩ := decodeX_instr h
    rfl
  all_goals
    cases h
    rfl

namespace Machine

/-- R72, R84: with an opcode of the table at PC the fetch window decodes, and to an instruction of that
opcode. The window holds an instruction of any length, so it is never truncated. -/
theorem decode_fetchWindow_of_mem_opcodes {s : State} (h : s.readProgram s.pc ∈ opcodes) :
    ∃ i rest, decode s.fetchWindow = .instr i rest ∧ i.opcode = s.readProgram s.pc := by
  rw [State.fetchWindow_eq]
  cases hd : decode _ with
  | instr i rest => exact ⟨i, rest, rfl, opcode_of_decode hd⟩
  | unimplementedOpcode op =>
    obtain rfl := decode_unimplemented hd
    exact absurd hd (decode_ne_unimplementedOpcode_of_mem h _)
  | truncated => exact absurd hd (decode_three_ne_truncated _ _ _)

/-- R84 to R86: a running CORE executes the decoded instruction, with the load port closed (entry 8). -/
theorem step_of_decode {s : State} (hr : s.running) {i : Instr} {rest : List Byte}
    (hd : decode s.fetchWindow = .instr i rest) : step s = exec i s.closeLoad := by
  obtain ⟨hfaulted, hhalted⟩ := hr
  simp [step, hfaulted, hhalted, hd]

/-- Settles O19: the halted branch of `step`, whatever the fault record. -/
theorem haltedStepIsANoOp : Obligations.HaltedStepIsANoOp :=
  fun _ => step_of_halted

/-- Settles O24: a byte of the table decodes and its instruction runs; any other byte is taken as
UnimplementedOpcode, which writes the record beside the closed load port. -/
theorem stepDecodesOrRaisesUnimplementedOpcode : Obligations.StepDecodesOrRaisesUnimplementedOpcode := by
  refine fun s hr => ⟨fun hmem => ?_, fun hnot => ?_⟩
  · obtain ⟨i, rest, hd, hop⟩ := decode_fetchWindow_of_mem_opcodes hmem
    exact ⟨i, rest, hd, hop, step_of_decode hr hd⟩
  · exact ⟨_, _, step_of_notMem_opcodes hr hnot, rfl, rfl⟩

end Machine

end Sys2Proof

/-! The statements of 41_output_nop.md. Each of the three is one byte long (format N), so its decoding
leaves the bytes after the opcode, and PC advances by 1. -/

namespace Sys2Proof

/-- R93: the encoding of NOP. -/
theorem decode_nop (rest : List Byte) : decode (0x00#8 :: rest) = .instr .nop rest := rfl

/-- R94: the encoding of OUTA. -/
theorem decode_outa (rest : List Byte) : decode (0x01#8 :: rest) = .instr .outa rest := rfl

/-- R95: the encoding of OUTB. -/
theorem decode_outb (rest : List Byte) : decode (0x02#8 :: rest) = .instr .outb rest := rfl

namespace Machine

/-- R93: the fetch of NOP is its whole effect. -/
theorem exec_nop (s : State) : exec .nop s = .next { s with pc := s.pc + 1 } := rfl

/-- R94: beside the fetch, OUTA appends the value of A to the stream. -/
theorem exec_outa (s : State) :
    exec .outa s = .next { s with pc := s.pc + 1, diag := s.diag ++ [DiagEvent.outA s.a] } := rfl

/-- R95: beside the fetch, OUTB appends the value of B to the stream. -/
theorem exec_outb (s : State) :
    exec .outb s = .next { s with pc := s.pc + 1, diag := s.diag ++ [DiagEvent.outB s.b] } := rfl

/-- Settles O2: the encoding and the meaning of NOP. -/
theorem nopOnlyAdvancesThePc : Obligations.NopOnlyAdvancesThePc :=
  fun s rest => ⟨decode_nop rest, exec_nop s⟩

/-- Settles O3: the encodings and the meanings of OUTA and OUTB. -/
theorem outputEmitsItsAccumulator : Obligations.OutputEmitsItsAccumulator :=
  fun s rest => ⟨decode_outa rest, exec_outa s, decode_outb rest, exec_outb s⟩

end Machine

end Sys2Proof

/-! The statements of 42_load_immediate.md. Each of the three is two bytes long (format I): its decoding
takes the byte after the opcode, whatever its value, and PC advances by 2. -/

namespace Sys2Proof

/-- R96: the encoding of LDAI. -/
theorem decode_ldai (imm : Byte) (rest : List Byte) :
    decode (0x10#8 :: imm :: rest) = .instr (.ldai imm) rest := rfl

/-- R97: the encoding of LDBI. -/
theorem decode_ldbi (imm : Byte) (rest : List Byte) :
    decode (0x11#8 :: imm :: rest) = .instr (.ldbi imm) rest := rfl

/-- R98: the encoding of LDPI. -/
theorem decode_ldpi (imm : Byte) (rest : List Byte) :
    decode (0x12#8 :: imm :: rest) = .instr (.ldpi imm) rest := rfl

namespace Machine

/-- R96: beside the fetch, LDAI writes A alone. -/
theorem exec_ldai (imm : Byte) (s : State) :
    exec (.ldai imm) s = .next { s with a := imm, pc := s.pc + 2 } := rfl

/-- R97: beside the fetch, LDBI writes B alone. -/
theorem exec_ldbi (imm : Byte) (s : State) :
    exec (.ldbi imm) s = .next { s with b := imm, pc := s.pc + 2 } := rfl

/-- R98: beside the fetch, LDPI writes P alone. -/
theorem exec_ldpi (imm : Byte) (s : State) :
    exec (.ldpi imm) s = .next { s with p := imm, pc := s.pc + 2 } := rfl

/-- Settles O4: the encodings and the meanings of LDAI, LDBI and LDPI. -/
theorem loadImmediateWritesItsRegister : Obligations.LoadImmediateWritesItsRegister :=
  fun s imm rest =>
    ⟨decode_ldai imm rest, exec_ldai imm s,
      decode_ldbi imm rest, exec_ldbi imm s,
      decode_ldpi imm rest, exec_ldpi imm s⟩

end Machine

end Sys2Proof

/-! The statements of 43_paged_and_moves.md. The paged accesses are two bytes long (format I) and reach
the data byte at `P : off`, with P from before the instruction; the moves and the page selections are
one byte long (format N). -/

namespace Sys2Proof

/-- R99: the encoding of STAP. -/
theorem decode_stap (off : Byte) (rest : List Byte) :
    decode (0x20#8 :: off :: rest) = .instr (.stap off) rest := rfl

/-- R100: the encoding of STBP. -/
theorem decode_stbp (off : Byte) (rest : List Byte) :
    decode (0x21#8 :: off :: rest) = .instr (.stbp off) rest := rfl

/-- R101: the encoding of LDAP. -/
theorem decode_ldap (off : Byte) (rest : List Byte) :
    decode (0x22#8 :: off :: rest) = .instr (.ldap off) rest := rfl

/-- R102: the encoding of LDBP. -/
theorem decode_ldbp (off : Byte) (rest : List Byte) :
    decode (0x23#8 :: off :: rest) = .instr (.ldbp off) rest := rfl

/-- R103: the encoding of MOVBA. -/
theorem decode_movba (rest : List Byte) : decode (0x24#8 :: rest) = .instr .movba rest := rfl

/-- R104: the encoding of MOVAB. -/
theorem decode_movab (rest : List Byte) : decode (0x25#8 :: rest) = .instr .movab rest := rfl

/-- R105: the encoding of PGA. -/
theorem decode_pga (rest : List Byte) : decode (0x2d#8 :: rest) = .instr .pga rest := rfl

/-- R106: the encoding of PGB. -/
theorem decode_pgb (rest : List Byte) : decode (0x2e#8 :: rest) = .instr .pgb rest := rfl

/-- R107: the encoding of LDPP. -/
theorem decode_ldpp (off : Byte) (rest : List Byte) :
    decode (0x2f#8 :: off :: rest) = .instr (.ldpp off) rest := rfl

namespace Machine

/-! The paged address, and reading data memory after a paged store. -/

/-- R46: the paged address has P as its high byte. -/
theorem State.pagedAddr_eq (s : State) (off : Byte) : s.pagedAddr off = s.p ++ off := rfl

/-- R44, R46: in a canonical data memory the byte a paged store writes is the byte read there. -/
theorem State.memRead_storePaged_same {s : State} (hwf : s.dm.wf = true) (off v : Byte) :
    (s.storePaged off v).memRead (s.pagedAddr off) = v :=
  State.memRead_memWrite_same hwf (s.pagedAddr off) v

/-- R44, R46: a paged store leaves the byte at every other address. -/
theorem State.memRead_storePaged_of_ne (s : State) {off : Byte} (v : Byte) {addr : Addr}
    (hne : addr ≠ s.pagedAddr off) : (s.storePaged off v).memRead addr = s.memRead addr :=
  State.memRead_memWrite_of_ne s v hne

/-! The paged stores. -/

/-- R99: beside the fetch, STAP stores A at the paged address. -/
theorem exec_stap (off : Byte) (s : State) :
    exec (.stap off) s = .next ((s.advance 2).storePaged off s.a) := rfl

/-- R100: beside the fetch, STBP stores B at the paged address. -/
theorem exec_stbp (off : Byte) (s : State) :
    exec (.stbp off) s = .next ((s.advance 2).storePaged off s.b) := rfl

/-- What STAP and STBP share: an instruction whose meaning is the fetch of two bytes and a paged store
changes PC and one data byte. The fetch moves neither P nor data memory, so the address stored to, and
every byte read beside it, are those of the state before. -/
theorem exec_changes_one_byte {i : Instr} {s : State} {off v : Byte}
    (h : exec i s = .next ((s.advance 2).storePaged off v)) :
    ∃ t, exec i s = .next t ∧ t = { s with pc := s.pc + 2, dm := t.dm } ∧
      (s.dm.wf = true → t.memRead (s.pagedAddr off) = v) ∧
      ∀ addr, addr ≠ s.pagedAddr off → t.memRead addr = s.memRead addr := by
  have hsame (hwf : s.dm.wf = true) : ((s.advance 2).storePaged off v).memRead (s.pagedAddr off) = v :=
    State.memRead_storePaged_same (s := s.advance 2) hwf off v
  have hother (addr : Addr) (hne : addr ≠ s.pagedAddr off) :
      ((s.advance 2).storePaged off v).memRead addr = s.memRead addr :=
    State.memRead_storePaged_of_ne (s.advance 2) v hne
  exact ⟨_, h, rfl, hsame, hother⟩

/-- Settles O5: the encodings of STAP and STBP, and the paged store the two share. -/
theorem pagedStoreWritesOneByte : Obligations.PagedStoreWritesOneByte :=
  fun s off rest =>
    ⟨s.pagedAddr_eq off,
      decode_stap off rest, exec_changes_one_byte (exec_stap off s),
      decode_stbp off rest, exec_changes_one_byte (exec_stbp off s)⟩

/-! The paged loads. -/

/-- R101: beside the fetch, LDAP writes A alone. -/
theorem exec_ldap (off : Byte) (s : State) :
    exec (.ldap off) s = .next { s with a := s.memRead (s.p ++ off), pc := s.pc + 2 } := rfl

/-- R102: beside the fetch, LDBP writes B alone. -/
theorem exec_ldbp (off : Byte) (s : State) :
    exec (.ldbp off) s = .next { s with b := s.memRead (s.p ++ off), pc := s.pc + 2 } := rfl

/-- R107: beside the fetch, LDPP writes P alone, from the page the old P selects. -/
theorem exec_ldpp (off : Byte) (s : State) :
    exec (.ldpp off) s = .next { s with p := s.memRead (s.p ++ off), pc := s.pc + 2 } := rfl

/-- Settles O6: the encodings and the meanings of LDAP, LDBP and LDPP. -/
theorem pagedLoadReadsItsPage : Obligations.PagedLoadReadsItsPage :=
  fun s off rest =>
    ⟨decode_ldap off rest, exec_ldap off s,
      decode_ldbp off rest, exec_ldbp off s,
      decode_ldpp off rest, exec_ldpp off s⟩

/-! The register moves and the page selections. -/

/-- R103: beside the fetch, MOVBA writes A alone. -/
theorem exec_movba (s : State) : exec .movba s = .next { s with a := s.b, pc := s.pc + 1 } := rfl

/-- R104: beside the fetch, MOVAB writes B alone. -/
theorem exec_movab (s : State) : exec .movab s = .next { s with b := s.a, pc := s.pc + 1 } := rfl

/-- R105: beside the fetch, PGA writes P alone. -/
theorem exec_pga (s : State) : exec .pga s = .next { s with p := s.a, pc := s.pc + 1 } := rfl

/-- R106: beside the fetch, PGB writes P alone. -/
theorem exec_pgb (s : State) : exec .pgb s = .next { s with p := s.b, pc := s.pc + 1 } := rfl

/-- Settles O7: the encodings and the meanings of MOVBA and MOVAB. -/
theorem movesCopyTheOtherAccumulator : Obligations.MovesCopyTheOtherAccumulator :=
  fun s rest => ⟨decode_movba rest, exec_movba s, decode_movab rest, exec_movab s⟩

/-- Settles O8: the encodings and the meanings of PGA and PGB. -/
theorem pageSelectCopiesAnAccumulator : Obligations.PageSelectCopiesAnAccumulator :=
  fun s rest => ⟨decode_pga rest, exec_pga s, decode_pgb rest, exec_pgb s⟩

end Machine

end Sys2Proof

/-! The statements of 44_direct_indirect.md. LDAD is three bytes long (format W) and carries its data
address, high byte first; LDAX and LDBX are one byte long (format O) and address by the old `A : B`. -/

namespace Sys2Proof

/-- R108: the encoding of LDAD. -/
theorem decode_ldad (hi lo : Byte) (rest : List Byte) :
    decode (0x30#8 :: hi :: lo :: rest) = .instr (.ldad (hi ++ lo)) rest := rfl

/-- R109: the encoding of LDAX. -/
theorem decode_ldax (rest : List Byte) : decode (0x31#8 :: rest) = .instr .ldax rest := rfl

/-- R110: the encoding of LDBX. -/
theorem decode_ldbx (rest : List Byte) : decode (0x32#8 :: rest) = .instr .ldbx rest := rfl

namespace Machine

/-- R108: beside the fetch, LDAD writes A alone; P has no part in the address. -/
theorem exec_ldad (addr : Addr) (s : State) :
    exec (.ldad addr) s = .next { s with a := s.memRead addr, pc := s.pc + 3 } := rfl

/-- R109: beside the fetch, LDAX writes A alone, though A is also the high byte of the address. -/
theorem exec_ldax (s : State) :
    exec .ldax s = .next { s with a := s.memRead (s.a ++ s.b), pc := s.pc + 1 } := rfl

/-- R110: beside the fetch, LDBX writes B alone, though B is also the low byte of the address. -/
theorem exec_ldbx (s : State) :
    exec .ldbx s = .next { s with b := s.memRead (s.a ++ s.b), pc := s.pc + 1 } := rfl

/-- Settles O9: the encoding of LDAD, and its meaning at the address the two bytes encode. -/
theorem directLoadReadsTheEncodedAddress : Obligations.DirectLoadReadsTheEncodedAddress :=
  fun s hi lo rest => ⟨decode_ldad hi lo rest, exec_ldad (hi ++ lo) s⟩

/-- Settles O10: the encodings and the meanings of LDAX and LDBX. -/
theorem indirectLoadReadsTheOldPair : Obligations.IndirectLoadReadsTheOldPair :=
  fun s rest => ⟨decode_ldax rest, exec_ldax s, decode_ldbx rest, exec_ldbx s⟩

end Machine

end Sys2Proof

/-! The statements of 45_arithmetic.md. ADD and ADC are one byte long (format O) and share one addition
to A; they differ in its second operand alone, which is B or bit 0 of B + F. -/

namespace Sys2Proof

/-- R112: the encoding of ADD. -/
theorem decode_add (rest : List Byte) : decode (0x40#8 :: rest) = .instr .add rest := rfl

/-- R114: the encoding of ADC. -/
theorem decode_adc (rest : List Byte) : decode (0x41#8 :: rest) = .instr .adc rest := rfl

namespace Machine

/-- R111: the carry out is set exactly where the exact sum exceeds 255. -/
theorem add8_snd_eq_true_iff (x y : Byte) : (add8 x y).2 = true ↔ x.toNat + y.toNat > 255 := by
  rw [add8_snd, decide_eq_true_iff]

/-- R113: the operand of ADC as a number, in the words of the rule. -/
theorem State.adcOperand_toNat_eq_and_one (s : State) :
    s.adcOperand.toNat = (s.b.toNat + s.f.toNat) &&& 1 := by
  rw [State.adcOperand_toNat, Nat.and_one_is_mod]

/-- R25: replacing the carry keeps every bit of F above bit 0. -/
theorem withCarry_getLsbD_of_pos (f : Byte) (c : Bool) {k : Nat} (hk : 1 ≤ k) :
    (withCarry f c).getLsbD k = f.getLsbD k := by
  obtain ⟨i, rfl⟩ := Nat.exists_eq_add_of_le' hk
  exact withCarry_getLsbD_succ f c i

/-- R112: beside the fetch, ADD is the shared addition of B. -/
theorem exec_add (s : State) : exec .add s = .next ((s.advance 1).addToA s.b) := rfl

/-- R114: beside the fetch, ADC is the shared addition of its operand. -/
theorem exec_adc (s : State) : exec .adc s = .next ((s.advance 1).addToA s.adcOperand) := rfl

/-- What ADD and ADC share: an instruction whose meaning is the fetch of one byte and the addition of an
operand of value `n` writes the sum, the carry and the notice, and nothing else beside PC. -/
theorem exec_adds_to_a {i : Instr} {s : State} {y : Byte} {n : Nat}
    (h : exec i s = .next ((s.advance 1).addToA y)) (hn : y.toNat = n) :
    ∃ t, exec i s = .next t ∧
      t = { s with a := t.a, f := t.f, diag := t.diag, pc := s.pc + 1 } ∧
      t.a.toNat = (s.a.toNat + n) % 256 ∧
      (t.f[0] = true ↔ s.a.toNat + n > 255) ∧
      (∀ k, 1 ≤ k → t.f.getLsbD k = s.f.getLsbD k) ∧
      t.diag = s.diag ++ if s.a.toNat + n > 255 then [DiagEvent.addOverflow] else [] := by
  subst hn
  rw [State.addToA_eq] at h
  have hcarry : (withCarry s.f (add8 s.a y).2)[0] = true ↔ s.a.toNat + y.toNat > 255 := by
    rw [withCarry_carry, add8_snd_eq_true_iff]
  have hnotice : (if (add8 s.a y).2 then [DiagEvent.addOverflow] else []) =
      if s.a.toNat + y.toNat > 255 then [DiagEvent.addOverflow] else [] :=
    if_congr (add8_snd_eq_true_iff s.a y) rfl rfl
  exact ⟨_, h, rfl, add8_fst_toNat s.a y, hcarry, fun _ => withCarry_getLsbD_of_pos s.f _,
    congrArg (s.diag ++ ·) hnotice⟩

/-- Settles O11: the encoding of ADD, and the shared addition with B as its operand. -/
theorem addWritesSumCarryAndNotice : Obligations.AddWritesSumCarryAndNotice :=
  fun s rest => ⟨decode_add rest, exec_adds_to_a (exec_add s) rfl⟩

/-- Settles O12: the encoding of ADC, and the shared addition with bit 0 of B + F as its operand. -/
theorem adcAddsOneBitOfBPlusStatus : Obligations.AdcAddsOneBitOfBPlusStatus :=
  fun s rest => ⟨decode_adc rest, exec_adds_to_a (exec_adc s) s.adcOperand_toNat_eq_and_one⟩

end Machine

end Sys2Proof

/-! The statements of 46_control_transfer.md. A jump's meaning is the fetch of its bytes, then PC
overwritten; a conditional one overwrites it where its condition holds, and stands past its three bytes
where it does not. -/

namespace Sys2Proof

/-- R118: the encoding of JMP. -/
theorem decode_jmp (hi lo : Byte) (rest : List Byte) :
    decode (0xf0#8 :: hi :: lo :: rest) = .instr (.jmp (hi ++ lo)) rest := rfl

/-- R119: the encoding of JMPA. -/
theorem decode_jmpa (rest : List Byte) : decode (0xf1#8 :: rest) = .instr .jmpa rest := rfl

/-- R120: the encoding of JMPAB. -/
theorem decode_jmpab (rest : List Byte) : decode (0xf2#8 :: rest) = .instr .jmpab rest := rfl

/-- R121: the encoding of JC. -/
theorem decode_jc (hi lo : Byte) (rest : List Byte) :
    decode (0xf3#8 :: hi :: lo :: rest) = .instr (.jc (hi ++ lo)) rest := rfl

/-- R123: the encoding of JCAB. -/
theorem decode_jcab (x1 x2 : Byte) (rest : List Byte) :
    decode (0xf5#8 :: x1 :: x2 :: rest) = .instr (.jcab x1 x2) rest := rfl

/-- R124: the encoding of JZ. -/
theorem decode_jz (hi lo : Byte) (rest : List Byte) :
    decode (0xf6#8 :: hi :: lo :: rest) = .instr (.jz (hi ++ lo)) rest := rfl

namespace Machine

/-! The register targets and the conditions. -/

/-- R9: zero extension puts 0x00 above the byte. -/
theorem zext16_eq_zero_append (v : Byte) : zext16 v = 0x00#8 ++ v := by
  have hpair : (0x00#8 ++ v : Addr).toNat = 256 * (0x00#8 : Byte).toNat + v.toNat := pair_toNat 0x00#8 v
  apply BitVec.eq_of_toNat_eq
  rw [zext16_toNat, hpair, BitVec.toNat_zero, Nat.mul_zero, Nat.zero_add]

/-- R117: the condition of JZ and JZB is met exactly where A is 0x00. -/
theorem State.aIsZero_iff (s : State) : s.aIsZero = true ↔ s.a = 0x00#8 := beq_iff_eq

/-! The unconditional jumps: the target overwrites the PC the fetch left. -/

/-- R118: JMP writes PC alone. -/
theorem exec_jmp (addr : Addr) (s : State) : exec (.jmp addr) s = .next { s with pc := addr } := rfl

/-- R119: JMPA writes PC alone. -/
theorem exec_jmpa (s : State) : exec .jmpa s = .next { s with pc := 0x00#8 ++ s.a } := by
  have hjump : exec .jmpa s = .next { s with pc := zext16 s.a } := rfl
  rw [hjump, zext16_eq_zero_append]

/-- R120: JMPAB writes PC alone. -/
theorem exec_jmpab (s : State) : exec .jmpab s = .next { s with pc := s.a ++ s.b } := rfl

/-- Settles O15: the encodings and the meanings of JMP, JMPA and JMPAB. -/
theorem unconditionalJumpsGoToTheirTarget : Obligations.UnconditionalJumpsGoToTheirTarget :=
  fun s hi lo rest =>
    ⟨decode_jmp hi lo rest, exec_jmp (hi ++ lo) s,
      decode_jmpa rest, exec_jmpa s,
      decode_jmpab rest, exec_jmpab s⟩

/-! The conditional jumps. -/

/-- R117, R126: what the conditional jumps share. An instruction whose meaning is the fetch of three bytes
and a jump under a condition writes PC alone: the target, or PC past the three bytes. The fetch leaves
the registers, so the condition and the target are those of the state before. -/
theorem exec_jumps_if {i : Instr} {s : State} {c : Bool} {target : Addr}
    (h : exec i s = .next ((s.advance 3).jumpIf c target)) :
    exec i s = .next { s with pc := if c then target else s.pc + 3 } :=
  h.trans (congrArg _ (State.jumpIf_eq (s.advance 3) c target))

/-- R121: JC writes PC alone, by the carry. -/
theorem exec_jc (addr : Addr) (s : State) :
    exec (.jc addr) s = .next { s with pc := if s.f[0] then addr else s.pc + 3 } :=
  exec_jumps_if rfl

/-- R123: JCAB writes PC alone, by the carry, whatever its two operand bytes. -/
theorem exec_jcab (x1 x2 : Byte) (s : State) :
    exec (.jcab x1 x2) s = .next { s with pc := if s.f[0] then s.a ++ s.b else s.pc + 3 } :=
  exec_jumps_if rfl

/-- R124: JZ writes PC alone, by the value of A and not by a flag. -/
theorem exec_jz (addr : Addr) (s : State) :
    exec (.jz addr) s = .next { s with pc := if s.a = 0x00#8 then addr else s.pc + 3 } := by
  have hjump : exec (.jz addr) s = .next { s with pc := if s.aIsZero then addr else s.pc + 3 } :=
    exec_jumps_if rfl
  rw [hjump, if_congr s.aIsZero_iff rfl rfl]

/-- Settles O16: the encodings and the meanings of JC, JCAB and JZ, taken and not taken. -/
theorem conditionalJumpsTestTheirCondition : Obligations.ConditionalJumpsTestTheirCondition :=
  fun s hi lo rest =>
    ⟨decode_jc hi lo rest, exec_jc (hi ++ lo) s,
      decode_jcab hi lo rest, exec_jcab hi lo s,
      decode_jz hi lo rest, exec_jz (hi ++ lo) s⟩

end Machine

end Sys2Proof

/-! The statement of 47_halt.md. HLT is one byte long (format O): the fetch leaves PC after the opcode and
`halted` is set; the state it leaves is a halted one, so every run keeps it. -/

namespace Sys2Proof

/-- R127: the encoding of HLT. -/
theorem decode_hlt (rest : List Byte) : decode (0xff#8 :: rest) = .instr .hlt rest := rfl

namespace Machine

/-- R127: beside the fetch, HLT sets `halted` alone. -/
theorem exec_hlt (s : State) : exec .hlt s = .next { s with halted := true, pc := s.pc + 1 } := rfl

/-- R35: every run of a halted CORE, of any number of steps, answers the state it began in. -/
theorem run_of_halted {s : State} (hh : s.halted = true) (n : Nat) : run n s = .next s :=
  run_of_step_fixed (step_of_halted hh) n

/-- Settles O18: the encoding and the meaning of HLT, and that the state it leaves is halted, which every
run keeps. -/
theorem hltStopsTheMachineForGood : Obligations.HltStopsTheMachineForGood :=
  fun s rest => ⟨decode_hlt rest, exec_hlt s, run_of_halted rfl⟩

end Machine

end Sys2Proof

/-! The decoder and the encoder of 30_encoding.md agree (R65 to R72): the decoder reads an instruction
exactly from its opcode byte and its operand bytes, and the opcode byte alone decides the format (R70). -/

namespace Sys2Proof

/-- What the decoder leaves to the operand: after the opcode stand exactly the operand bytes of the decoded
instruction. The arms of the opcode map are grouped by format, as in `opcode_of_decode`. -/
theorem operandBytes_of_decode {op : Byte} {bs rest : List Byte} {i : Instr}
    (h : decode (op :: bs) = .instr i rest) : bs = i.operandBytes ++ rest := by
  simp only [decode] at h
  split at h
  case h_30 => cases h
  case h_4 | h_5 | h_6 | h_7 | h_8 | h_9 | h_10 | h_15 =>
    obtain ⟨_, rfl, rfl⟩ := decodeI_instr h
    rfl
  case h_16 | h_21 | h_24 | h_27 =>
    obtain ⟨_, _, rfl, rfl⟩ := decodeW_instr h
    simp [Instr.operandBytes]
  case h_25 | h_26 | h_28 =>
    obtain ⟨_, _, rfl, rfl⟩ := decodeX_instr h
    rfl
  all_goals
    cases h
    rfl

/-- The decoder consumes nothing but an encoding. -/
theorem eq_encode_of_decode {bytes rest : List Byte} {i : Instr} (h : decode bytes = .instr i rest) :
    bytes = encode i ++ rest := by
  cases bytes with
  | nil => cases h
  | cons op bs => rw [encode, List.cons_append, opcode_of_decode h, ← operandBytes_of_decode h]

/-- R68: the two bytes of an address, high byte first, are read back as that address. -/
theorem decodeW_highByte_lowByte (mk : Addr → Instr) (addr : Addr) (rest : List Byte) :
    decodeW mk (highByte addr :: lowByte addr :: rest) = .instr (mk addr) rest := by
  rw [decodeW, pair_highByte_lowByte]

/-- Every encoding is read back, whatever follows it. -/
theorem decode_encode (i : Instr) (rest : List Byte) : decode (encode i ++ rest) = .instr i rest := by
  cases i with
  | ldad addr | jmp addr | jc addr | jz addr => exact decodeW_highByte_lowByte _ addr rest
  | _ => rfl

/-- Settles O31: what is decoded is the encoding, and the encoding is decoded. -/
theorem decodeReadsExactlyTheEncoding : Obligations.DecodeReadsExactlyTheEncoding := by
  refine fun bytes i rest => ⟨eq_encode_of_decode, ?_⟩
  rintro rfl
  exact decode_encode i rest

/-- R70: an encoding has as many bytes as its format says. -/
theorem length_encode (i : Instr) : (encode i).length = i.length := by
  cases i <;> rfl

/-- R65: the longest instruction has three bytes. -/
theorem length_encode_le_three (i : Instr) : (encode i).length ≤ 3 := by
  rw [length_encode, Instr.length]
  cases i.format <;> decide

/-- The format an opcode byte stands for: that of the instruction read where the byte is followed by two
more, enough for every format. A byte outside the table stands for none. -/
def opcodeFormat (op : Byte) : Option Format :=
  match decode [op, 0x00#8, 0x00#8] with
  | .instr i _ => some i.format
  | .unimplementedOpcode _ | .truncated => none

/-- R70: the format is a function of the opcode byte. -/
theorem opcodeFormat_opcode (i : Instr) : opcodeFormat i.opcode = some i.format := by
  cases i <;> rfl

/-- R70: instructions with the same opcode byte have the same format. -/
theorem format_eq_of_opcode_eq {i j : Instr} (h : i.opcode = j.opcode) : i.format = j.format := by
  have hsame : some i.format = some j.format := by rw [← opcodeFormat_opcode, h, opcodeFormat_opcode]
  exact Option.some.inj hsame

/-- Settles O33: both decodings have the opcode byte they were read from, so one format; and the bytes read
are an encoding and the rest. -/
theorem opcodeAloneDecidesTheLength : Obligations.OpcodeAloneDecidesTheLength := by
  intro op bs cs i j r q hi hj
  have hformat : i.format = j.format :=
    format_eq_of_opcode_eq ((opcode_of_decode hi).trans (opcode_of_decode hj).symm)
  refine ⟨hformat, congrArg Format.length hformat, ?_⟩
  rw [eq_encode_of_decode hi, List.length_append, length_encode]

end Sys2Proof

/-! The access matrix of 10_state.md section 7 (R33), column by column: what an instruction leaves in each
field of the state. Every instruction answers a next state; ADD and ADC go through the shared addition, the
conditional jumps through `jumpIf`, and every other meaning is a chain of updates of other fields. -/

namespace Sys2Proof.Machine

/-- R129: every instruction answers a next state. -/
theorem exec_total (i : Instr) (s : State) : ∃ t, exec i s = .next t := by
  cases i <;> exact ⟨_, rfl⟩

section Columns

variable {i : Instr} {s t : State}

theorem exec_a_of_not_writesA (h : exec i s = .next t) (hw : i.writesA = false) : t.a = s.a := by
  cases i with
  | ldai | ldap | movba | ldad | ldax | add | adc => cases hw
  | jc | jca | jcab | jz | jzb => cases h; exact State.jumpIf_a _ _ _
  | _ => cases h; rfl

theorem exec_b_of_not_writesB (h : exec i s = .next t) (hw : i.writesB = false) : t.b = s.b := by
  cases i with
  | ldbi | ldbp | movab | ldbx => cases hw
  | add | adc => cases h; exact State.addToA_b _ _
  | jc | jca | jcab | jz | jzb => cases h; exact State.jumpIf_b _ _ _
  | _ => cases h; rfl

theorem exec_p_of_not_writesP (h : exec i s = .next t) (hw : i.writesP = false) : t.p = s.p := by
  cases i with
  | ldpi | pga | pgb | ldpp => cases hw
  | add | adc => cases h; exact State.addToA_p _ _
  | jc | jca | jcab | jz | jzb => cases h; exact State.jumpIf_p _ _ _
  | _ => cases h; rfl

/-- R25, R26: an instruction leaves F or sets its carry bit; it sets it where the matrix says so. -/
theorem exec_f_cases (h : exec i s = .next t) :
    t.f = s.f ∨ i.writesF = true ∧ ∃ c, t.f = withCarry s.f c := by
  cases i with
  | add | adc => cases h; exact .inr ⟨rfl, _, State.addToA_f _ _⟩
  | jc | jca | jcab | jz | jzb => cases h; exact .inl (State.jumpIf_f _ _ _)
  | _ => cases h; exact .inl rfl

theorem exec_halted_of_ne_hlt (h : exec i s = .next t) (hi : i ≠ .hlt) : t.halted = s.halted := by
  cases i with
  | hlt => exact absurd rfl hi
  | add | adc => cases h; exact State.addToA_halted _ _
  | jc | jca | jcab | jz | jzb => cases h; exact State.jumpIf_halted _ _ _
  | _ => cases h; rfl

/-- R132: no instruction writes the fault record; the step takes the exception. -/
theorem exec_faulted (h : exec i s = .next t) : t.faulted = s.faulted := by
  cases i with
  | add | adc => cases h; exact State.addToA_faulted _ _
  | jc | jca | jcab | jz | jzb => cases h; exact State.jumpIf_faulted _ _ _
  | _ => cases h; rfl

theorem exec_loadOpen (h : exec i s = .next t) : t.loadOpen = s.loadOpen := by
  cases i with
  | add | adc => cases h; exact State.addToA_loadOpen _ _
  | jc | jca | jcab | jz | jzb => cases h; exact State.jumpIf_loadOpen _ _ _
  | _ => cases h; rfl

/-- R45: no instruction but the two stores writes data memory. -/
theorem exec_dm_of_not_isStore (h : exec i s = .next t) (hi : i.isStore = false) : t.dm = s.dm := by
  cases i with
  | stap | stbp => cases hi
  | add | adc => cases h; exact State.addToA_dm _ _
  | jc | jca | jcab | jz | jzb => cases h; exact State.jumpIf_dm _ _ _
  | _ => cases h; rfl

/-- R45, R46: a store writes one accumulator at one paged address. -/
theorem exec_dm_of_isStore (h : exec i s = .next t) (hi : i.isStore = true) :
    ∃ off, (i = .stap off ∧ t.dm = s.dm.write (s.pagedAddr off).toNat s.a) ∨
      (i = .stbp off ∧ t.dm = s.dm.write (s.pagedAddr off).toNat s.b) := by
  cases i with
  | stap off => cases h; exact ⟨off, .inl ⟨rfl, rfl⟩⟩
  | stbp off => cases h; exact ⟨off, .inr ⟨rfl, rfl⟩⟩
  | _ => cases hi

/-- R88: PC stands after an instruction that is no jump. -/
theorem exec_pc_of_not_isJump (h : exec i s = .next t) (hi : i.isJump = false) :
    t.pc = s.pc + BitVec.ofNat 16 i.length := by
  cases i with
  | jmp | jmpa | jmpab | jc | jca | jcab | jz | jzb => cases hi
  | add | adc => cases h; exact State.addToA_pc _ _
  | _ => cases h; rfl

/-- Bits 7:1 of F are kept by every instruction. -/
theorem exec_f_getLsbD_of_pos (h : exec i s = .next t) {k : Nat} (hk : 1 ≤ k) :
    t.f.getLsbD k = s.f.getLsbD k := by
  obtain hf | ⟨-, c, hf⟩ := exec_f_cases h
  · rw [hf]
  · rw [hf, withCarry_getLsbD_of_pos s.f c hk]

theorem exec_f_of_not_writesF (h : exec i s = .next t) (hw : i.writesF = false) : t.f = s.f := by
  obtain hf | ⟨hw', -⟩ := exec_f_cases h
  · exact hf
  · rw [hw] at hw'
    cases hw'

/-- A store leaves every data byte but the one at its paged address. -/
theorem exec_memRead_of_ne (h : exec i s = .next t) {off : Byte} (hi : i = .stap off ∨ i = .stbp off)
    {addr : Addr} (hne : addr ≠ s.pagedAddr off) : t.memRead addr = s.memRead addr := by
  obtain rfl | rfl := hi <;> cases h <;> exact State.memRead_storePaged_of_ne (s.advance 2) _ hne

end Columns

/-- Settles O40: the columns of the access matrix, in its order. -/
theorem onlyWritersChangeTheirState : Obligations.OnlyWritersChangeTheirState :=
  fun _ _ _ h =>
    ⟨exec_a_of_not_writesA h, exec_b_of_not_writesB h, exec_p_of_not_writesP h,
      exec_f_of_not_writesF h, fun _ => exec_f_getLsbD_of_pos h,
      exec_halted_of_ne_hlt h, exec_faulted h, exec_loadOpen h, State.readProgram_congr (exec_pm h),
      fun hi => State.memRead_congr (exec_dm_of_not_isStore h hi),
      fun _ hi _ => exec_memRead_of_ne h hi, exec_pc_of_not_isJump h⟩

/-! The events (40_execution_cycle.md R90, R91). -/

/-- R113, R114: the addition of ADC exceeds 255 exactly where A is 0xFF and B + F is odd, since its operand
is a bit. -/
theorem adc_overflow_iff (s : State) :
    s.a.toNat + s.adcOperand.toNat > 255 ↔ s.a = 0xff#8 ∧ (s.b.toNat + s.f.toNat) % 2 = 1 := by
  have hmax : s.a = 0xff#8 ↔ s.a.toNat = 255 := BitVec.toNat_inj.symm
  rw [State.adcOperand_toNat, hmax]
  omega

/-- R90, R91: an instruction appends its expected events and nothing else. -/
theorem exec_diag {i : Instr} {s t : State} (h : exec i s = .next t) :
    t.diag = s.diag ++ i.expectedEvents s := by
  cases i with
  | outa | outb => cases h; rfl
  | add =>
    cases h
    rw [State.addToA_diag]
    exact congrArg (s.diag ++ ·) (if_congr (add8_snd_eq_true_iff s.a s.b) rfl rfl)
  | adc =>
    cases h
    rw [State.addToA_diag]
    have hcarry := (add8_snd_eq_true_iff s.a s.adcOperand).trans (adc_overflow_iff s)
    exact congrArg (s.diag ++ ·) (if_congr hcarry rfl rfl)
  | jc | jca | jcab | jz | jzb =>
    cases h
    exact (State.jumpIf_diag _ _ _).trans (List.append_nil _).symm
  | _ => cases h; exact (List.append_nil _).symm

/-- R91: an instruction emits at most one event. -/
theorem length_expectedEvents_le_one (i : Instr) (s : State) : (i.expectedEvents s).length ≤ 1 := by
  cases i with
  | add | adc =>
    rw [Instr.expectedEvents]
    split <;> decide
  | outa | outb => exact Nat.le_refl 1
  | _ => exact Nat.zero_le 1

/-- Settles O42: the events field by the column above, and their number. -/
theorem emittedEventsAreExact : Obligations.EmittedEventsAreExact :=
  fun i s _ h => ⟨exec_diag h, length_expectedEvents_le_one i s⟩

end Sys2Proof.Machine

/-! The access matrix, the columns of reads: two runs of an instruction that differ in a register it does
not read end in states that differ in that register alone. Where a meaning has a condition (a conditional
jump, the overflow notice), its equation as one record shows the condition unchanged. -/

namespace Sys2Proof

/-- R122: the encoding of JCA. -/
theorem decode_jca (x1 x2 : Byte) (rest : List Byte) :
    decode (0xf4#8 :: x1 :: x2 :: rest) = .instr (.jca x1 x2) rest := rfl

/-- R125: the encoding of JZB. -/
theorem decode_jzb (x1 x2 : Byte) (rest : List Byte) :
    decode (0xf7#8 :: x1 :: x2 :: rest) = .instr (.jzb x1 x2) rest := rfl

namespace Machine

/-- R122: JCA writes PC alone, by the carry, whatever its two operand bytes. -/
theorem exec_jca (x1 x2 : Byte) (s : State) :
    exec (.jca x1 x2) s = .next { s with pc := if s.f[0] then 0x00#8 ++ s.a else s.pc + 3 } := by
  have hjump : exec (.jca x1 x2) s = .next { s with pc := if s.f[0] then zext16 s.a else s.pc + 3 } :=
    exec_jumps_if rfl
  rw [hjump, zext16_eq_zero_append]

/-- R125: JZB writes PC alone, by the value of A, whatever its two operand bytes. -/
theorem exec_jzb (x1 x2 : Byte) (s : State) :
    exec (.jzb x1 x2) s = .next { s with pc := if s.a = 0x00#8 then 0x00#8 ++ s.b else s.pc + 3 } := by
  have hjump : exec (.jzb x1 x2) s = .next { s with pc := if s.aIsZero then zext16 s.b else s.pc + 3 } :=
    exec_jumps_if rfl
  rw [hjump, zext16_eq_zero_append, if_congr s.aIsZero_iff rfl rfl]

/-- Settles O17: the encodings and the meanings of JCA and JZB, taken and not taken. -/
theorem byteTargetConditionalJumpsZeroExtend : Obligations.ByteTargetConditionalJumpsZeroExtend :=
  fun s x1 x2 rest =>
    ⟨decode_jca x1 x2 rest, exec_jca x1 x2 s, decode_jzb x1 x2 rest, exec_jzb x1 x2 s⟩

/-- Settles O30: each word is an encoding, followed by nothing. -/
theorem mapWordsDecode : Obligations.MapWordsDecode :=
  ⟨decode_nop [], decode_stap _ [], decode_ldpp _ [], decode_pga [], decode_ldad _ _ [], decode_ldbx [],
    decode_jc _ _ [], decode_jzb _ _ []⟩

theorem exec_with_a_of_not_readsA {i : Instr} {s t : State} (x : Byte) (h : exec i s = .next t)
    (hr : i.readsA = false) :
    ∃ u, exec i { s with a := x } = .next u ∧ t = { u with a := t.a } ∧
      u.a = if i.writesA then t.a else x := by
  cases i with
  | outa | stap | movab | pga | ldax | ldbx | add | adc | jmpa | jmpab | jca | jcab | jz | jzb => cases hr
  | jc addr =>
    rw [exec_jc] at h ⊢
    cases h
    exact ⟨_, rfl, rfl, rfl⟩
  | _ => cases h; exact ⟨_, rfl, rfl, rfl⟩

theorem exec_with_b_of_not_readsB {i : Instr} {s t : State} (x : Byte) (h : exec i s = .next t)
    (hr : i.readsB = false) :
    ∃ u, exec i { s with b := x } = .next u ∧ t = { u with b := t.b } ∧
      u.b = if i.writesB then t.b else x := by
  cases i with
  | outb | stbp | movba | pgb | ldax | ldbx | add | adc | jmpab | jcab | jzb => cases hr
  | jc | jca | jz =>
    simp only [exec_jc, exec_jca, exec_jz] at h ⊢
    cases h
    exact ⟨_, rfl, rfl, rfl⟩
  | _ => cases h; exact ⟨_, rfl, rfl, rfl⟩

theorem exec_with_p_of_not_readsP {i : Instr} {s t : State} (x : Byte) (h : exec i s = .next t)
    (hr : i.readsP = false) :
    ∃ u, exec i { s with p := x } = .next u ∧ t = { u with p := t.p } ∧
      u.p = if i.writesP then t.p else x := by
  cases i with
  | stap | stbp | ldap | ldbp | ldpp => cases hr
  | add | adc =>
    simp only [exec_add, exec_adc, State.addToA_eq] at h ⊢
    cases h
    exact ⟨_, rfl, rfl, rfl⟩
  | jc | jca | jcab | jz | jzb =>
    simp only [exec_jc, exec_jca, exec_jcab, exec_jz, exec_jzb] at h ⊢
    cases h
    exact ⟨_, rfl, rfl, rfl⟩
  | _ => cases h; exact ⟨_, rfl, rfl, rfl⟩

/-- ADD replaces the carry bit of whatever F it finds, so the carry it leaves is the same. -/
theorem exec_with_f_of_not_readsF {i : Instr} {s t : State} (x : Byte) (h : exec i s = .next t)
    (hr : i.readsF = false) :
    ∃ u, exec i { s with f := x } = .next u ∧ t = { u with f := t.f } ∧
      u.f[0] = if i.writesF then t.f[0] else x[0] := by
  cases i with
  | adc | jc | jca | jcab => cases hr
  | add =>
    simp only [exec_add, State.addToA_eq] at h ⊢
    cases h
    exact ⟨_, rfl, rfl, (withCarry_carry _ _).trans (withCarry_carry _ _).symm⟩
  | jz | jzb =>
    simp only [exec_jz, exec_jzb] at h ⊢
    cases h
    exact ⟨_, rfl, rfl, rfl⟩
  | _ => cases h; exact ⟨_, rfl, rfl, rfl⟩

/-- Settles O41: one column of reads for each of A, B, P and F. -/
theorem onlyReadersDependOnARegister : Obligations.OnlyReadersDependOnARegister :=
  fun _ _ _ x h =>
    ⟨exec_with_a_of_not_readsA x h, exec_with_b_of_not_readsB x h,
      exec_with_p_of_not_readsP x h, exec_with_f_of_not_readsF x h⟩

/-- R90: the events to expect do not depend on those emitted before. -/
theorem expectedEvents_with_diag (i : Instr) (s : State) (d : List DiagEvent) :
    i.expectedEvents { s with diag := d } = i.expectedEvents s := by
  cases i <;> rfl

/-- R90: no instruction reads the event stream. -/
theorem exec_with_diag {i : Instr} {s t : State} (d : List DiagEvent) (h : exec i s = .next t) :
    exec i { s with diag := d } = .next { t with diag := d ++ i.expectedEvents s } := by
  obtain ⟨u, hu⟩ := exec_total i { s with diag := d }
  have hdiag : u.diag = d ++ i.expectedEvents s := by
    rw [exec_diag hu, expectedEvents_with_diag]
  have hother : u = { t with diag := u.diag } := by
    cases i with
    | add | adc =>
      simp only [exec_add, exec_adc, State.addToA_eq] at h hu
      cases h; cases hu; rfl
    | jc | jca | jcab | jz | jzb =>
      simp only [exec_jc, exec_jca, exec_jcab, exec_jz, exec_jzb] at h hu
      cases h; cases hu; rfl
    | _ => cases h; cases hu; rfl
  rw [hu, hother, hdiag]

end Machine
end Sys2Proof

/-! The step of 40_execution_cycle.md (R80 to R92): when a CORE is stopped, what stands at PC, and what
every step and run answers. -/

namespace Sys2Proof.Machine

/-- R82: the step of a faulted CORE changes nothing. -/
theorem step_of_faulted {s : State} (hf : s.faulted ≠ none) : step s = .next s := by
  rw [step, if_pos (Option.isSome_iff_ne_none.mpr hf)]

/-- Settles O21: a faulted state is a fixed point of `step`, so of every run. -/
theorem faultedStateIsFinalUntilReset : Obligations.FaultedStateIsFinalUntilReset :=
  fun s n hf => ⟨run_of_step_fixed (step_of_faulted hf) n, resetPort_eq s⟩

/-- R81, R82: a CORE that is not running is faulted or halted, and its step changes nothing. -/
theorem step_of_not_running {s : State} (hr : ¬ s.running) : step s = .next s := by
  by_cases hf : s.faulted = none
  · exact step_of_halted (by simpa [State.running, hf] using hr)
  · exact step_of_faulted hf

/-- R129: every step answers a next state: a stopped CORE its own, an opcode of the table that of its
instruction, any other byte the state with the fault record. -/
theorem step_total (s : State) : ∃ t, step s = .next t := by
  by_cases hr : s.running
  · by_cases hmem : s.readProgram s.pc ∈ opcodes
    · obtain ⟨i, rest, hd, -⟩ := decode_fetchWindow_of_mem_opcodes hmem
      rw [step_of_decode hr hd]
      exact exec_total i s.closeLoad
    · exact ⟨_, step_of_notMem_opcodes hr hmem⟩
  · exact ⟨s, step_of_not_running hr⟩

theorem run_total (n : Nat) (s : State) : ∃ t, run n s = .next t := by
  induction n generalizing s with
  | zero => exact ⟨s, run_zero s⟩
  | succ n ih =>
    obtain ⟨u, hu⟩ := step_total s
    rw [run_succ_of_next n hu]
    exact ih u

/-- Settles O26: instructions, steps and runs are total. -/
theorem everyStepAnswersANextState : Obligations.EveryStepAnswersANextState :=
  ⟨exec_total, run_total⟩

/-! The bytes at PC. -/

/-- R24, R83: byte `k` of the fetch window is the program byte at PC + k, modulo 65536. -/
theorem State.fetchWindow_getElem? (s : State) {k : Nat} (hk : k < 3) :
    s.fetchWindow[k]? = some (s.readProgram (s.pc + BitVec.ofNat 16 k)) := by
  rw [State.fetchWindow_eq]
  match k, hk with
  | 0, _ => simp
  | 1, _ => rfl
  | 2, _ => simp [BitVec.add_assoc]

/-- Settles O22: the three bytes of the window, and the step on what they decode to. -/
theorem stepRunsTheDecodedInstruction : Obligations.StepRunsTheDecodedInstruction := by
  refine fun s i rest hr hd => ⟨?_, step_of_decode hr hd⟩
  rw [State.fetchWindow_eq, BitVec.add_assoc]
  rfl

/-- An encoding that stands at PC is what the window decodes to: the window is long enough for it, so the
window begins with it. -/
theorem decode_fetchWindow_of_encoded {s : State} {i : Instr}
    (h : ∀ k b, (encode i)[k]? = some b → s.readProgram (s.pc + BitVec.ofNat 16 k) = b) :
    ∃ rest, decode s.fetchWindow = .instr i rest := by
  have hprefix : encode i <+: s.fetchWindow := by
    refine List.prefix_iff_getElem?.mpr fun k hk => ?_
    rw [State.fetchWindow_getElem? s (hk.trans_le (length_encode_le_three i)),
      h k _ (List.getElem?_eq_getElem hk)]
  obtain ⟨rest, hrest⟩ := hprefix
  exact ⟨rest, hrest ▸ decode_encode i rest⟩

/-- Settles O23: the encoding at PC is decoded, and what is decoded runs. -/
theorem stepRunsTheEncodedBytesAtPc : Obligations.StepRunsTheEncodedBytesAtPc := by
  intro s i hr h
  obtain ⟨rest, hd⟩ := decode_fetchWindow_of_encoded h
  exact step_of_decode hr hd

/-- Settles O28: after 0xFFFF the window goes on at 0x0000, so it holds the encoding of a JMP. -/
theorem operandFetchWrapsAtTheTop : Obligations.OperandFetchWrapsAtTheTop := by
  rintro s hi lo hr hpc hop rfl rfl
  have hwindow : s.fetchWindow = [0xf0#8, s.readProgram 0x0000#16, s.readProgram 0x0001#16] := by
    rw [State.fetchWindow_eq, hpc, hop]
    rfl
  have hd := decode_jmp (s.readProgram 0x0000#16) (s.readProgram 0x0001#16) []
  rw [← hwindow] at hd
  exact ⟨_, (step_of_decode hr hd).trans (exec_jmp _ _), rfl⟩

/-- Settles O25: the record that the exception leaves, and the frame around it. -/
theorem illegalOpcodeIsRecordedPrecisely : Obligations.IllegalOpcodeIsRecordedPrecisely :=
  fun _ => step_of_notMem_opcodes

/-- R84: where the window is rejected, the byte at PC is none of the 29 opcodes. -/
theorem notMem_opcodes_of_decode {s : State} {op : Byte}
    (h : decode s.fetchWindow = .unimplementedOpcode op) : s.readProgram s.pc ∉ opcodes := by
  rw [State.fetchWindow_eq] at h
  obtain rfl := decode_unimplemented h
  exact (decode_eq_unimplementedOpcode_iff _ _).mp h

/-! What a step changes, and by what cause. -/

/-- R146: the step of a running CORE closes the load port. -/
theorem step_loadOpen {s t : State} (hr : s.running) (h : step s = .next t) : t.loadOpen = false := by
  obtain ⟨hstop, -⟩ | ⟨-, i, rest, -, hexec⟩ | ⟨-, op, -, rfl⟩ := step_cases h
  · exact absurd hr hstop
  · exact exec_loadOpen hexec
  · rfl

/-- Settles O27: the PC column of the access matrix, on the state with the load port closed. -/
theorem straightStepsAdvanceByTheLength : Obligations.StraightStepsAdvanceByTheLength := by
  intro s t i rest hr hd hjump h
  rw [step_of_decode hr hd] at h
  exact exec_pc_of_not_isJump (s := s.closeLoad) h hjump

/-- R29: over a step, P changes only by an instruction that writes it. -/
theorem step_p_cause {s t : State} (h : step s = .next t) (hne : t.p ≠ s.p) :
    ∃ i rest, decode s.fetchWindow = .instr i rest ∧ i.writesP = true := by
  obtain ⟨-, rfl⟩ | ⟨-, i, rest, hd, hexec⟩ | ⟨-, op, -, rfl⟩ := step_cases h
  · exact absurd rfl hne
  · have hkept (hw : i.writesP = false) : t.p = s.p := exec_p_of_not_writesP (s := s.closeLoad) hexec hw
    exact ⟨i, rest, hd, Bool.eq_true_of_not_eq_false fun hw => hne (hkept hw)⟩
  · exact absurd rfl hne

/-- R28: over a step, `halted` changes only by HLT, which sets it. -/
theorem step_halted_cause {s t : State} (h : step s = .next t) (hne : t.halted ≠ s.halted) :
    ∃ rest, decode s.fetchWindow = .instr .hlt rest ∧ t.halted = true := by
  obtain ⟨-, rfl⟩ | ⟨-, i, rest, hd, hexec⟩ | ⟨-, op, -, rfl⟩ := step_cases h
  · exact absurd rfl hne
  · have hkept (hi : i ≠ .hlt) : t.halted = s.halted := exec_halted_of_ne_hlt (s := s.closeLoad) hexec hi
    obtain rfl : i = .hlt := by_contra fun hi => hne (hkept hi)
    cases hexec
    exact ⟨rest, hd, rfl⟩
  · exact absurd rfl hne

/-- R30: over a step, a fault record comes only from a byte outside the table, and only where none stood. -/
theorem step_faulted_cause {s t : State} (h : step s = .next t) (hne : t.faulted ≠ s.faulted) :
    s.readProgram s.pc ∉ opcodes ∧ s.faulted = none := by
  obtain ⟨-, rfl⟩ | ⟨-, i, rest, hd, hexec⟩ | ⟨hr, op, hd, -⟩ := step_cases h
  · exact absurd rfl hne
  · exact absurd (exec_faulted hexec) hne
  · exact ⟨notMem_opcodes_of_decode hd, hr.1⟩

/-- Settles O44: the causes of a changed P, halted flag and fault record. -/
theorem controlStateChangesHaveTheirCause : Obligations.ControlStateChangesHaveTheirCause :=
  fun _ _ h => ⟨step_p_cause h, step_halted_cause h, step_faulted_cause h⟩

/-- R44, R45: in a canonical data memory, a data byte that an instruction changes is the one it stores. -/
theorem exec_memRead_cause {i : Instr} {s t : State} {addr : Addr} (hwf : s.dm.wf = true)
    (h : exec i s = .next t) (hne : t.memRead addr ≠ s.memRead addr) :
    ∃ off, addr = s.pagedAddr off ∧
      ((i = .stap off ∧ t.memRead addr = s.a) ∨ (i = .stbp off ∧ t.memRead addr = s.b)) := by
  have hstore : i.isStore = true :=
    Bool.eq_true_of_not_eq_false fun hi => hne (State.memRead_congr (exec_dm_of_not_isStore h hi) addr)
  obtain ⟨off, hcases⟩ := exec_dm_of_isStore h hstore
  have hi : i = .stap off ∨ i = .stbp off := hcases.imp And.left And.left
  obtain rfl : addr = s.pagedAddr off := by_contra fun ha => hne (exec_memRead_of_ne h hi ha)
  have hstored {v : Byte} (hdm : t.dm = s.dm.write (s.pagedAddr off).toNat v) :
      t.memRead (s.pagedAddr off) = v := by
    rw [State.memRead, hdm, Memory.read_write_same hwf]
  exact ⟨off, rfl, hcases.imp (And.imp_right hstored) (And.imp_right hstored)⟩

/-- Settles O45: only a decoded instruction changes a data byte, and it is a store of that byte. -/
theorem dataBytesChangeOnlyByPagedStores : Obligations.DataBytesChangeOnlyByPagedStores := by
  intro s t addr hwf h hne
  obtain ⟨-, rfl⟩ | ⟨-, i, rest, hd, hexec⟩ | ⟨-, op, -, rfl⟩ := step_cases h
  · exact absurd rfl hne
  · obtain ⟨off, haddr, ⟨rfl, hv⟩ | ⟨rfl, hv⟩⟩ := exec_memRead_cause (s := s.closeLoad) hwf hexec hne
    · exact ⟨off, rest, haddr, .inl ⟨hd, hv⟩⟩
    · exact ⟨off, rest, haddr, .inr ⟨hd, hv⟩⟩
  · exact absurd rfl hne

/-- Settles O43: the fetch does not read the stream, so the step with another stream takes the same branch;
there an instruction appends its expected events, and the other branches append none. -/
theorem diagStreamIsWriteOnly : Obligations.DiagStreamIsWriteOnly := by
  intro s t d h
  obtain ⟨hstop, rfl⟩ | ⟨hr, i, rest, hd, hexec⟩ | ⟨hr, op, hd, rfl⟩ := step_cases h
  · refine ⟨[], Nat.zero_le 1, (List.append_nil _).symm, ?_⟩
    rw [List.append_nil]
    exact step_of_not_running (s := { t with diag := d }) hstop
  · refine ⟨_, length_expectedEvents_le_one i s.closeLoad, exec_diag (s := s.closeLoad) hexec, ?_⟩
    exact (step_of_decode (s := { s with diag := d }) hr hd).trans (exec_with_diag d hexec)
  · refine ⟨[], Nat.zero_le 1, (List.append_nil _).symm, ?_⟩
    rw [List.append_nil]
    exact step_of_notMem_opcodes (s := { s with diag := d }) hr (notMem_opcodes_of_decode hd)

end Sys2Proof.Machine

/-! The invariant of a step boundary (10_state.md section 4): F is 0x00 or 0x01, both memories are in
canonical form, at most one stop, a closed port when stopped, a true fault record. -/

namespace Sys2Proof.Machine

/-- Settles O35: after reset everything is zero and the CORE runs. -/
theorem resetMeetsTheInvariant : Obligations.ResetMeetsTheInvariant :=
  ⟨.inl rfl, State.reset_pm_wf, State.reset_dm_wf, fun ⟨_, hfail⟩ => hfail rfl, fun _ => ⟨rfl, rfl⟩, rfl⟩

/-- With no record there is nothing to be true. -/
theorem State.faultRecordTrue_of_none {s : State} (h : s.faulted = none) : s.faultRecordTrue = true := by
  rw [State.faultRecordTrue, h]

/-- R27: an instruction sets at most the carry bit of F, so a legal F stays legal. -/
theorem exec_keeps_legal_f {i : Instr} {s t : State} (h : exec i s = .next t)
    (hf : s.f = 0x00#8 ∨ s.f = 0x01#8) : t.f = 0x00#8 ∨ t.f = 0x01#8 := by
  obtain hsame | ⟨-, c, hset⟩ := exec_f_cases h
  · rwa [hsame]
  · rw [hset, withCarry_of_legal hf]
    cases c
    · exact .inl rfl
    · exact .inr rfl

/-- A store writes below 65536, so data memory stays canonical. -/
theorem exec_keeps_dm_wf {i : Instr} {s t : State} (h : exec i s = .next t) (hwf : s.dm.wf = true) :
    t.dm.wf = true := by
  cases hi : i.isStore with
  | false => rwa [exec_dm_of_not_isStore h hi]
  | true =>
    obtain ⟨off, ⟨-, hdm⟩ | ⟨-, hdm⟩⟩ := exec_dm_of_isStore h hi <;>
      rw [hdm] <;> exact Memory.wf_write _ hwf (s.pagedAddr off).isLt

/-- An instruction keeps the invariant: it runs without a fault record and writes none, and the load port
was closed before it. -/
theorem exec_keeps_inv {i : Instr} {s t : State} (hs : s.Inv) (hr : s.running)
    (h : exec i s.closeLoad = .next t) : t.Inv := by
  obtain ⟨hf, hpm, hdm, -, -, -⟩ := hs
  have hnofault : t.faulted = none := (exec_faulted h).trans hr.1
  have hclosed : t.loadOpen ≠ true := Bool.eq_false_iff.mp (exec_loadOpen h)
  have hpm' : t.pm.wf = true := by rwa [exec_pm h]
  exact ⟨exec_keeps_legal_f h hf, hpm', exec_keeps_dm_wf h hdm, fun ⟨_, hfail⟩ => hfail hnofault,
    fun hopen => absurd hopen hclosed, State.faultRecordTrue_of_none hnofault⟩

/-- R132, R133: taking UnimplementedOpcode keeps the invariant: it records the byte at PC and PC itself. -/
theorem raiseUnimplementedOpcode_keeps_inv {s : State} (hs : s.Inv) (hr : s.running)
    (hop : s.readProgram s.pc ∉ opcodes) :
    (s.closeLoad.raiseUnimplementedOpcode (s.readProgram s.pc)).Inv := by
  obtain ⟨hf, hpm, hdm, -, -, -⟩ := hs
  have hnothalted : s.halted ≠ true := Bool.eq_false_iff.mp hr.2
  have htrue : (s.closeLoad.raiseUnimplementedOpcode (s.readProgram s.pc)).faultRecordTrue = true := by
    simpa [State.faultRecordTrue, State.readProgram] using hop
  have hclosed : (s.closeLoad.raiseUnimplementedOpcode (s.readProgram s.pc)).loadOpen ≠ true :=
    Bool.false_ne_true
  exact ⟨hf, hpm, hdm, fun ⟨hhalted, _⟩ => hnothalted hhalted, fun hopen => absurd hopen hclosed, htrue⟩

/-- Settles O36: the three cases of a step. -/
theorem everyStepKeepsTheInvariant : Obligations.EveryStepKeepsTheInvariant := by
  intro s t hs h
  obtain ⟨-, rfl⟩ | ⟨hr, i, rest, -, hexec⟩ | ⟨hr, op, hd, rfl⟩ := step_cases h
  · exact hs
  · exact exec_keeps_inv hs hr hexec
  · exact raiseUnimplementedOpcode_keeps_inv hs hr (notMem_opcodes_of_decode hd)

/-- A load keeps the invariant: an open port means a running CORE, and the image is written byte by byte. -/
theorem load_keeps_inv {s t : State} {image : List Byte} (hs : s.Inv) (h : load image s = .next t) :
    t.Inv := by
  obtain ⟨hf, hpm, hdm, hstop, hport, -⟩ := hs
  obtain ⟨hopen, -, rfl⟩ := load_next h
  exact ⟨hf, Memory.wf_writeBytes hpm _ _, hdm, hstop, hport,
    State.faultRecordTrue_of_none (hport hopen).1⟩

/-- Settles O37: a startup is a load after reset, and a reset answers the reset state. -/
theorem portsKeepTheInvariant : Obligations.PortsKeepTheInvariant := by
  refine fun s t image => ⟨load_keeps_inv, load_keeps_inv resetMeetsTheInvariant, fun h => ?_⟩
  cases h
  exact resetMeetsTheInvariant

end Sys2Proof.Machine

/-! A memory in canonical form is determined by its bytes (20_memory.md section 1; entry 20). -/

namespace Sys2Proof.Machine

/-- The first listed byte is not 0x00, so no memory that starts above its address reads alike. -/
theorem Memory.not_wfFrom_succ_of_read_eq {lo k : Nat} {v : Byte} {m n : Memory}
    (hm : Memory.wfFrom lo ((k, v) :: m) = true)
    (h : ∀ a, a < 65536 → Memory.read ((k, v) :: m) a = n.read a) : Memory.wfFrom (k + 1) n ≠ true := by
  intro hn
  obtain ⟨-, hk, hv, -⟩ := (Memory.wfFrom_cons lo k v m).mp hm
  have hread := h k hk
  rw [Memory.read_cons, if_pos rfl, Memory.read_below hn (Nat.lt_succ_self k)] at hread
  exact hv hread

theorem Memory.eq_of_read_eq {lo : Nat} {m n : Memory} (hm : Memory.wfFrom lo m = true)
    (hn : Memory.wfFrom lo n = true) (h : ∀ a, a < 65536 → m.read a = n.read a) : m = n := by
  induction m generalizing lo n with
  | nil =>
    cases n with
    | nil => rfl
    | cons d n => exact absurd rfl (Memory.not_wfFrom_succ_of_read_eq hn fun a ha => (h a ha).symm)
  | cons c m ih =>
    cases n with
    | nil => exact absurd rfl (Memory.not_wfFrom_succ_of_read_eq hm h)
    | cons d n =>
      obtain ⟨k, v⟩ := c
      obtain ⟨l, w⟩ := d
      obtain ⟨-, hk, hv, hm'⟩ := (Memory.wfFrom_cons lo k v m).mp hm
      obtain ⟨-, hl, hw, hn'⟩ := (Memory.wfFrom_cons lo l w n).mp hn
      have hkl : ¬ k < l := fun hlt => Memory.not_wfFrom_succ_of_read_eq hm h
        ((Memory.wfFrom_cons _ l w n).mpr ⟨hlt, hl, hw, hn'⟩)
      have hlk : ¬ l < k := fun hlt => Memory.not_wfFrom_succ_of_read_eq hn (fun a ha => (h a ha).symm)
        ((Memory.wfFrom_cons _ k v m).mpr ⟨hlt, hk, hv, hm'⟩)
      obtain rfl : k = l := by omega
      obtain rfl : v = w := by simpa [Memory.read_cons] using h k hk
      have htail (a : Nat) (ha : a < 65536) : Memory.read m a = Memory.read n a := by
        by_cases hak : k = a
        · subst hak
          rw [Memory.read_below hm' (Nat.lt_succ_self k), Memory.read_below hn' (Nat.lt_succ_self k)]
        · simpa [Memory.read_cons, hak] using h a ha
      rw [ih hm' hn' htail]

/-- Settles O38: the canonical form is the one from address 0 on. -/
theorem canonicalMemoriesThatReadAlikeAreEqual : Obligations.CanonicalMemoriesThatReadAlikeAreEqual :=
  fun _ _ => Memory.eq_of_read_eq

/-! The addresses of 20_memory.md section 2, and reading back what was stored there. -/

/-- R46, R47: joining two bytes is a shift and an or. -/
theorem append_eq_shiftLeft_or (hi lo : Byte) :
    (hi ++ lo : Addr) = (hi.setWidth 16 <<< 8) ||| lo.setWidth 16 := by
  rw [BitVec.append_def, BitVec.shiftLeftZeroExtend_eq]
  rfl

/-- Settles O47: the paged address and the pair A:B are joined bytes. -/
theorem pagedAddressStaysInItsPage : Obligations.PagedAddressStaysInItsPage := by
  intro s off
  have hpaged : (s.pagedAddr off).toNat = 256 * s.p.toNat + off.toNat := pair_toNat s.p off
  have hoff := off.isLt
  exact ⟨append_eq_shiftLeft_or s.p off, hpaged, by omega, pair_toNat s.a s.b, zext16_toNat off⟩

/-- Settles O46: all the loads read the byte at the address P:off, which STAP stored. -/
theorem storedByteIsReadBackInEveryMode : Obligations.StoredByteIsReadBackInEveryMode := by
  intro s off hwf
  have hread : ((s.advance 2).storePaged off s.a).memRead (s.p ++ off) = s.a :=
    State.memRead_storePaged_same (s := s.advance 2) hwf off s.a
  exact ⟨_, exec_stap off s, ⟨_, exec_ldap off _, hread⟩, ⟨_, exec_ldbp off _, hread⟩,
    ⟨_, exec_ldpp off _, hread⟩, ⟨_, exec_ldad _ _, hread⟩, ⟨_, exec_ldax _, hread⟩,
    ⟨_, exec_ldbx _, hread⟩⟩

/-! The laws of 45_arithmetic.md section 3. -/

/-- R111: the sum modulo 256 is the sum of bytes. -/
theorem add8_fst (x y : Byte) : (add8 x y).1 = x + y := by
  apply BitVec.eq_of_toNat_eq
  rw [add8_fst_toNat, BitVec.toNat_add]

theorem add8_comm (x y : Byte) : add8 x y = add8 y x := by
  rw [add8, add8, Nat.add_comm]

/-- R113: where F is 0x00 or 0x01, bit 0 of B + F is whether bit 0 of B differs from the carry. -/
theorem State.adcOperand_of_legal {s : State} (hf : s.f = 0x00#8 ∨ s.f = 0x01#8) :
    s.adcOperand = if s.b[0] = s.f[0] then 0#8 else 1#8 := by
  have hb : s.b[0] = decide (s.b.toNat % 2 = 1) := by
    rw [BitVec.getElem_eq_testBit_toNat, Nat.testBit_zero]
  apply BitVec.eq_of_toNat_eq
  rw [State.adcOperand_toNat, hb]
  obtain hb2 | hb2 := Nat.mod_two_eq_zero_or_one s.b.toNat <;> obtain hf | hf := hf <;>
    simp [hf, hb2, Nat.add_mod]

/-- Settles O13: the operand is 0, and nothing changes but the carry cleared, or it is 1, and the carry is
that of an increment. -/
theorem adcIsAParityIncrement : Obligations.AdcIsAParityIncrement := by
  intro s hf
  have hmax : s.a = 0xff#8 ↔ s.a.toNat = 255 := BitVec.toNat_inj.symm
  have ha := s.a.isLt
  refine ⟨_, exec_adc s, ?_, ?_⟩
  · rw [State.addToA_a, add8_fst, State.adcOperand_of_legal hf]
    split
    · exact BitVec.add_zero _
    · rfl
  · have hcarry : (withCarry s.f (add8 s.a s.adcOperand).2) =
        if s.a = 0xff#8 ∧ s.b[0] ≠ s.f[0] then 0x01#8 else 0x00#8 := by
      rw [withCarry_of_legal hf]
      refine if_congr ((add8_snd_eq_true_iff _ _).trans ?_) rfl rfl
      rw [State.adcOperand_of_legal hf, hmax]
      by_cases hb : s.b[0] = s.f[0] <;> simp [hb] <;> omega
    exact (State.addToA_f _ _).trans hcarry

/-- Settles O14: the shared addition is that of a commutative sum; 0xFF is minus 1. -/
theorem addCommutesAndCountsDown : Obligations.AddCommutesAndCountsDown := by
  intro s x y
  have hcomm := add8_comm x y
  refine ⟨⟨_, _, exec_add _, exec_add _, ?_, ?_, ?_⟩, _, exec_add _, ?_, ?_⟩
  · rw [State.addToA_a, State.addToA_a]
    exact congrArg Prod.fst hcomm
  · rw [State.addToA_f, State.addToA_f]
    exact congrArg (fun r => withCarry s.f r.2) hcomm
  · rw [State.addToA_diag, State.addToA_diag]
    exact congrArg (fun r => s.diag ++ if r.2 then [DiagEvent.addOverflow] else []) hcomm
  · rw [State.addToA_a, add8_fst, BitVec.sub_eq_add_neg]
    rfl
  · have hzero : x = 0x00#8 ↔ x.toNat = 0 := BitVec.toNat_inj.symm
    simp only [State.addToA_f, withCarry_carry, add8_snd, decide_eq_false_iff_not, hzero]
    show ¬ x.toNat + 255 > 255 ↔ _
    omega

end Sys2Proof.Machine

/-! The ports and startup (70_reset_and_hazards.md section 1, 60_exceptions.md section 1, 20_memory.md
section 4). -/

namespace Sys2Proof.Machine

/-- Settles O1: every field of the reset state is written out, and an empty memory reads 0x00. -/
theorem resetLeavesEverythingZero : Obligations.ResetLeavesEverythingZero :=
  ⟨rfl, rfl, rfl, rfl, rfl, rfl, rfl, rfl, rfl,
    fun addr => ⟨Memory.read_nil addr.toNat, Memory.read_nil addr.toNat⟩⟩

/-- R146: with an open port an image that fits is written from program address 0. -/
theorem load_of_fits {s : State} {image : List Byte} (hopen : s.loadOpen = true)
    (hfit : image.length ≤ 65536) :
    load image s = .next { s with pm := s.pm.writeBytes Config.entryPoint image } := by
  have hwf : imageWf image = true := decide_eq_true hfit
  rw [load, if_pos hopen, if_pos hwf]

/-- D6: a longer image is refused. -/
theorem load_of_too_long {s : State} {image : List Byte} (hopen : s.loadOpen = true)
    (hlong : 65536 < image.length) : load image s = .refused .imageTooLong := by
  have hwf : imageWf image = false := decide_eq_false (Nat.not_le.mpr hlong)
  rw [load, if_pos hopen, hwf]
  rfl

/-- D18: with a closed port every image is refused. -/
theorem load_of_closed {s : State} (image : List Byte) (hclosed : s.loadOpen = false) :
    load image s = .refused .loadAfterFirstStep := by
  rw [load, hclosed]
  rfl

/-- R146: byte `k` of the image at program address `k`, and the old byte past the image. -/
theorem Memory.read_writeBytes_entryPoint {m : Memory} (hwf : m.wf = true) {image : List Byte}
    (hfit : image.length ≤ 65536) (k : Nat) :
    (m.writeBytes Config.entryPoint image).read k = image.getD k (m.read k) := by
  have hzero : Config.entryPoint.toNat = 0 := rfl
  have hbase : Config.entryPoint.toNat + image.length ≤ 65536 := by rwa [hzero, Nat.zero_add]
  rw [Memory.read_writeBytes hwf image _ hbase, hzero, if_pos (Nat.zero_le k), Nat.sub_zero]

/-- R146: what a load that fits answers, with its frame and its program bytes. -/
theorem load_places_image {s : State} {image : List Byte} (hwf : s.pm.wf = true)
    (hopen : s.loadOpen = true) (hfit : image.length ≤ 65536) :
    ∃ t, load image s = .next t ∧ t = { s with pm := t.pm } ∧
      ∀ k, k < 65536 →
        t.readProgram (BitVec.ofNat 16 k) = image.getD k (s.readProgram (BitVec.ofNat 16 k)) := by
  refine ⟨_, load_of_fits hopen hfit, rfl, fun k hk => ?_⟩
  have haddr : (BitVec.ofNat 16 k).toNat = k := Nat.mod_eq_of_lt hk
  rw [State.readProgram, State.readProgram, haddr]
  exact Memory.read_writeBytes_entryPoint hwf hfit k

/-- Settles O52: the three cases of the load port. -/
theorem loadPlacesTheImage : Obligations.LoadPlacesTheImage :=
  fun _ image hwf => ⟨load_places_image hwf, load_of_too_long, load_of_closed image⟩

/-- Settles O53: startup is a load at reset, whose program memory reads 0x00 everywhere. -/
theorem startupGivesARunningCoreAtZero : Obligations.StartupGivesARunningCoreAtZero := by
  refine ⟨fun image hfit => ?_, rfl⟩
  obtain ⟨t, hload, hframe, hbytes⟩ := load_places_image State.reset_pm_wf rfl hfit
  have hrunning : t.running := by
    rw [hframe]
    exact ⟨rfl, rfl⟩
  have hpc : t.pc = 0x0000#16 := by
    rw [hframe]
    rfl
  exact ⟨t, hload, hrunning, hpc, hframe, hbytes⟩

/-- Settles O54: the step closed the port. -/
theorem noLoadAfterTheFirstStep : Obligations.NoLoadAfterTheFirstStep :=
  fun _ _ image hr h => load_of_closed image (step_loadOpen hr h)

/-- R133: with no record the fault port shows code 0 alone. -/
theorem faultPort_of_none {s : State} (h : s.faulted = none) : faultPort s = (0, none) := by
  rw [faultPort, faultCode, h]
  rfl

/-- Settles O55: no record, or the one that the exception leaves. -/
theorem faultPortShowsTheRecord : Obligations.FaultPortShowsTheRecord :=
  fun _ => ⟨faultPort_of_none, fun hr hop => ⟨_, step_of_notMem_opcodes hr hop, rfl⟩⟩

/-- Settles O49: the bound of `fb_read`, in plain numbers. -/
theorem framebufferReadCoversTheUpperHalf : Obligations.FramebufferReadCoversTheUpperHalf := by
  refine fun s addr => ⟨fbRead_of_le s, fun hlt => if_neg fun hle => ?_⟩
  exact absurd hlt (Nat.not_lt.mpr hle)

/-! The framebuffer as pixels (20_memory.md R55 to R58). -/

/-- R56: the address of a pixel lies in 16 bits. -/
theorem pixelAddr_toNat (x : Fin Config.displayWidth) (y : Fin Config.displayHeight) :
    (pixelAddr x y).toNat = 0x8000 + 228 * y.val + x.val := by
  have hx : x.val < 228 := x.isLt
  have hy : y.val < 142 := y.isLt
  have hfit : 0x8000 + 228 * y.val + x.val < 65536 := by omega
  exact Nat.mod_eq_of_lt hfit

/-- R56, R57: the addresses that hold a pixel, in plain numbers. -/
theorem pixelAt_eq (addr : Addr) :
    pixelAt addr =
      if 0x8000 ≤ addr.toNat ∧ addr.toNat ≤ 0xfe77 then
        some ((addr.toNat - 0x8000) % 228, (addr.toNat - 0x8000) / 228)
      else none := by
  have hbound : (0x8000 ≤ addr.toNat ∧ addr.toNat - 0x8000 < 228 * 142) ↔
      0x8000 ≤ addr.toNat ∧ addr.toNat ≤ 0xfe77 := by omega
  exact if_congr hbound rfl rfl

/-- Settles O50: a pixel's column and row are the remainder and the quotient of its offset. -/
theorem pixelsAreLaidOutRowMajor : Obligations.PixelsAreLaidOutRowMajor := by
  refine ⟨fun x y => ⟨pixelAddr_toNat x y, ?_⟩, fun addr => ?_⟩
  · have hx : x.val < 228 := x.isLt
    have hy : y.val < 142 := y.isLt
    have hoffset : 0x8000 + 228 * y.val + x.val - 0x8000 = 228 * y.val + x.val := by omega
    have hcolumn : (228 * y.val + x.val) % 228 = x.val := by omega
    have hrow : (228 * y.val + x.val) / 228 = y.val := by omega
    rw [pixelAt_eq, pixelAddr_toNat, if_pos (by omega), hoffset, hcolumn, hrow]
  · rw [pixelAt_eq, ite_eq_right_iff]
    simp only [reduceCtorEq, imp_false]
    omega

/-- R58: a framebuffer byte is its three fields, red at the top. -/
theorem toNat_eq_pixelFields (v : Byte) :
    v.toNat = 32 * (pixelFields v).red.toNat + 4 * (pixelFields v).green.toNat +
      (pixelFields v).blue.toNat := by
  have hv := v.isLt
  simp only [pixelFields, BitVec.extractLsb'_toNat, Nat.shiftRight_eq_div_pow]
  omega

/-- R56: the first pixel is at the first address of the region. -/
theorem pixelAddr_origin {x : Fin Config.displayWidth} {y : Fin Config.displayHeight} (hx : x.val = 0)
    (hy : y.val = 0) : pixelAddr x y = 0x8000#16 := by
  apply BitVec.eq_of_toNat_eq
  rw [pixelAddr_toNat, hx, hy]
  rfl

/-- R58: the red byte uses the three table entries that are fixed (D10). -/
theorem colourOf_red : colourOf 0b11100000#8 = (255#8, 0#8, 0#8) := rfl

/-- Settles O51: 0x80:0x00 is the address of the first pixel, and the byte stored there is shown. -/
theorem framebufferByteShowsItsColour : Obligations.FramebufferByteShowsItsColour := by
  refine ⟨toNat_eq_pixelFields, fun s hwf hp ha => ⟨_, exec_stap 0x00#8 s, fun x y hx hy => ?_⟩⟩
  have hread := State.memRead_storePaged_same (s := s.advance 2) hwf 0x00#8 s.a
  have haddr : (s.advance 2).pagedAddr 0x00#8 = pixelAddr x y := by
    rw [pixelAddr_origin hx hy, State.pagedAddr_eq, State.advance_p, hp]
    rfl
  rw [State.pixelColour, ← haddr, hread, ha, colourOf_red]

end Sys2Proof.Machine

/-! The assembler of 30_encoding.md R76 on one instruction: the item stands at 0x0000, so the image is its
encoding. -/

namespace Sys2Proof.Machine

/-- R76: bytes written one after another are a run of byte writes, where they do not pass the top. -/
theorem foldl_write_zipIdx (bs : List Byte) (k : Nat) (m : Memory) (hfit : k + bs.length ≤ 65536) :
    ((bs.zipIdx k).map fun c => (0 + c.2, c.1)).foldl (fun (acc : Memory) c => acc.write c.1 c.2) m =
      m.writeBytes (BitVec.ofNat 16 k) bs := by
  induction bs generalizing k m with
  | nil => rfl
  | cons v bs ih =>
    rw [List.length_cons] at hfit
    have haddr : (BitVec.ofNat 16 k).toNat = k := Nat.mod_eq_of_lt (by omega)
    have hnext : BitVec.ofNat 16 k + 1 = BitVec.ofNat 16 (k + 1) := (BitVec.ofNat_add k 1).symm
    rw [List.zipIdx_cons, List.map_cons, List.foldl_cons, ih _ _ (by omega), Memory.writeBytes, haddr,
      hnext, Nat.zero_add]

/-- R76: the image of bytes placed at 0x0000 is those bytes. -/
theorem imageOf_singleton {bs : List Byte} (hfit : bs.length ≤ 65536) : imageOf [(0, bs)] = bs := by
  have hsize : imageOf [(0, bs)] = (List.range bs.length).map
      (Memory.read (((bs.zipIdx 0).map fun c => (0 + c.2, c.1)).foldl
        (fun (acc : Memory) c => acc.write c.1 c.2) [])) := by
    simp [imageOf]
  rw [hsize, foldl_write_zipIdx bs 0 [] (by omega)]
  refine List.ext_getElem (by simp) fun k hk hk' => ?_
  rw [List.getElem_map, List.getElem_range]
  exact (Memory.read_writeBytes_entryPoint Memory.wf_nil hfit k).trans (List.getD_eq_getElem _ _ hk')

/-- R76: one instruction with a fitting operand assembles to its encoding. -/
theorem assemble_instr {m : Mnemonic} {operand : Option Operand} {v : Addr}
    (hwf : operandFits m.format operand = true) (hv : operandValue [] operand = some v) :
    assemble [.instr m operand] = some (encode (Mnemonic.build m v)) := by
  have hlength := length_encode_le_three (Mnemonic.build m v)
  have hfit : (encode (Mnemonic.build m v)).length ≤ 65536 := by omega
  have himage := imageOf_singleton hfit
  have himageWf : imageWf (encode (Mnemonic.build m v)) = true := decide_eq_true hfit
  simp [assemble, labelTable, placeItems, SourceItem.wf, hwf, hv, himage, himageWf]

/-- R76: a number that fits 16 bits is its own value. -/
theorem operandValue_number {n : Nat} (labels : List (List Char × Nat)) (hn : n < 65536) :
    operandValue labels (some (.number n)) = some (BitVec.ofNat 16 n) :=
  if_pos hn

/-- R76: the operand of a byte format is the low byte of its value. -/
theorem lowByte_ofNat (n : Nat) : lowByte (BitVec.ofNat 16 n) = BitVec.ofNat 8 n := by
  apply BitVec.eq_of_toNat_eq
  simp only [lowByte, BitVec.extractLsb'_toNat, BitVec.toNat_ofNat, Nat.shiftRight_zero]
  omega

/-- Settles O34: each of the items assembles to the encoding of the instruction it stands for. -/
theorem assemblerWritesTheEncoding : Obligations.AssemblerWritesTheEncoding := by
  have hnone : operandValue [] none = some 0x0000#16 := rfl
  refine ⟨fun n hn => ?_, fun n hn => ?_, assemble_instr (m := .jca) rfl hnone,
    assemble_instr (m := .jcab) rfl hnone, assemble_instr (m := .jzb) rfl hnone⟩
  · have hv := operandValue_number [] hn
    have haddr : (Operand.number n).fitsAddr = true := decide_eq_true hn
    exact ⟨assemble_instr (m := .jmp) haddr hv, assemble_instr (m := .jca) haddr hv⟩
  · have hv := operandValue_number [] (n := n) (by omega)
    have hbyte : operandFits Mnemonic.ldai.format (some (.number n)) = true := decide_eq_true hn
    have hassemble := assemble_instr hbyte hv
    rw [hassemble, ← lowByte_ofNat n]
    rfl

end Sys2Proof.Machine
